-- ==== Sys2Proof/Word.lean ====
section
/-! DEFINITION. The word types of the CORE: bytes, 16-bit words, register-index nibbles and 12-bit addresses (00_scope.md R7, R9). -/

namespace Sys2Proof

/-- A byte: a general register, a timer, a cell of the byte store (R20, R31, R50). -/
abbrev Byte := BitVec 8

/-- A 16-bit word: an instruction, a key, PC, I, OP, a stack slot (R25, R28, R29, R33, R70). -/
abbrev Word := BitVec 16

/-- A register index, or the 4-bit field n of the placeholder DXYN (R71). -/
abbrev Nibble := BitVec 4

/-- The 12-bit address immediate NNN (R71). -/
abbrev Addr := BitVec 12

/-- A canonical opcode key (R13). -/
abbrev Key := Word

end Sys2Proof
end

