-- ==== Sys2Proof/Config.lean ====
section
/-! DEFINITION. The implementation parameters of 00_scope.md R8, as plain data, and the one free value of the model. -/

namespace Sys2Proof

/-- DECODE_ORDER (R8, R78, D1): the order in which decode tries its three masks. -/
inductive DecodeOrder where
  /-- The order the source states, 0xF000, 0xF00F, 0xF0FF: the normative one. -/
  | narrowFirst
  /-- The alternative order 0xF0FF, 0xF00F, 0xF000. -/
  | specificFirst
  deriving DecidableEq, Repr

/-- SUB_FLAG_RULE (R8, R176, R179, D3): when a subtraction sets VF. -/
inductive SubFlagRule where
  /-- VF := 1 iff the difference is > 0: the normative rule. -/
  | positiveDiff
  /-- VF := 1 iff the difference is >= 0. -/
  | noBorrow
  deriving DecidableEq, Repr

/-- TIMER_TICK (R8, R207, D11): what one TimerDriver step does to DT and ST. -/
inductive TimerTick where
  /-- The default of R207: each nonzero timer goes down by one. -/
  | saturatingDecrement
  /-- Any other rule of the driver: the free value `Config.driverTick` (log entry 7). -/
  | driverRule
  deriving DecidableEq, Repr

/-- The parameters a model takes as arguments (R8). -/
structure Config where
  /-- MEM_SIZE, the byte-store capacity (D10). -/
  memSize : Nat
  /-- DECODE_ORDER (D1). -/
  decodeOrder : DecodeOrder
  /-- PLACEHOLDER_KEYS, the keys bound to UNIMPL (D2), under the constraint of R79. -/
  placeholderKeys : List Key
  /-- SUB_FLAG_RULE (D3). -/
  subFlagRule : SubFlagRule
  /-- DISPLAY_W (D12). -/
  displayW : Nat
  /-- DISPLAY_H (D12). -/
  displayH : Nat
  /-- TIMER_TICK (D11). -/
  timerTick : TimerTick
  deriving DecidableEq, Repr

/-- The default PLACEHOLDER_KEYS, the sixteen keys of R221 in its order (D2). -/
def Config.defaultPlaceholderKeys : List Key :=
  [0x00EE, 0x8006, 0x800E, 0x9000, 0xB000, 0xC000, 0xD000, 0xE09E,
   0xE0A1, 0xF007, 0xF00A, 0xF01E, 0xF029, 0xF033, 0xF055, 0xF065]

/-- The normative and default value of every parameter (R8). -/
def Config.normative : Config where
  memSize := 4096
  decodeOrder := .narrowFirst
  placeholderKeys := Config.defaultPlaceholderKeys
  subFlagRule := .positiveDiff
  displayW := 64
  displayH := 32
  timerTick := .saturatingDecrement

/-- The normative configuration but for DECODE_ORDER = SPECIFIC_FIRST (R83). -/
def Config.specificFirst : Config := { Config.normative with decodeOrder := .specificFirst }

/-- A free value: what a TimerDriver that does not follow the default TIMER_TICK leaves in (DT, ST).
No body, so nothing can be proved of its value (R207 "TIMER_TICK is a parameter"; log entry 7, DESIGN CHOICE). -/
opaque Config.driverTick : Byte → Byte → Byte × Byte

end Sys2Proof
end

