-- ==== Sys2Proof/Syntax.lean ====
section
/-! DEFINITION. The instructions: one constructor per row of spec/opcode_table.json, with the operand fields the table gives the row. -/

namespace Sys2Proof

/-- The 34 instructions of the opcode table: 18 implemented ones (R2, R76), then the 16 placeholders (R221).
Each docstring gives the pattern, the assembler spelling of R87 or R221, and the rule. -/
inductive Instr where
  /-- 00E0, CLS (R131). -/
  | cls
  /-- 1NNN, JP addr (R133). -/
  | jp (nnn : Addr)
  /-- 2NNN, CALL addr (R136). -/
  | call (nnn : Addr)
  /-- 3XNN, SE Vx, byte (R140). -/
  | seByte (x : Nibble) (nn : Byte)
  /-- 4XNN, SNE Vx, byte (R142). -/
  | sneByte (x : Nibble) (nn : Byte)
  /-- 5XY0, SE Vx, Vy (R144). -/
  | seReg (x y : Nibble)
  /-- 6XNN, LD Vx, byte (R160). -/
  | ldByte (x : Nibble) (nn : Byte)
  /-- 7XNN, ADD Vx, byte (R162). -/
  | addByte (x : Nibble) (nn : Byte)
  /-- 8XY0, LD Vx, Vy (R165). -/
  | ldReg (x y : Nibble)
  /-- 8XY1, OR Vx, Vy (R167). -/
  | orReg (x y : Nibble)
  /-- 8XY2, AND Vx, Vy (R169). -/
  | andReg (x y : Nibble)
  /-- 8XY3, XOR Vx, Vy (R171). -/
  | xorReg (x y : Nibble)
  /-- 8XY4, ADD Vx, Vy (R173). -/
  | addReg (x y : Nibble)
  /-- 8XY5, SUB Vx, Vy (R176). -/
  | subReg (x y : Nibble)
  /-- 8XY7, SUBN Vx, Vy (R179). -/
  | subnReg (x y : Nibble)
  /-- ANNN, LD I, addr (R200). -/
  | ldI (nnn : Addr)
  /-- FX15, LD DT, Vx (R202). -/
  | ldDT (x : Nibble)
  /-- FX18, LD ST, Vx (R204). -/
  | ldST (x : Nibble)
  /-- 00EE, RET, a placeholder (R220, R221). -/
  | ret
  /-- 8XY6, SHR Vx, Vy, a placeholder (R220, R221). -/
  | shr (x y : Nibble)
  /-- 8XYE, SHL Vx, Vy, a placeholder (R220, R221). -/
  | shl (x y : Nibble)
  /-- 9XY0, SNE Vx, Vy, a placeholder (R220, R221). -/
  | sneReg (x y : Nibble)
  /-- BNNN, JP V0, addr, a placeholder (R220, R221). -/
  | jpV0 (nnn : Addr)
  /-- CXNN, RND Vx, byte, a placeholder (R220, R221). -/
  | rnd (x : Nibble) (nn : Byte)
  /-- DXYN, DRW Vx, Vy, n, a placeholder (R220, R221). -/
  | drw (x y n : Nibble)
  /-- EX9E, SKP Vx, a placeholder (R220, R221). -/
  | skp (x : Nibble)
  /-- EXA1, SKNP Vx, a placeholder (R220, R221). -/
  | sknp (x : Nibble)
  /-- FX07, LD Vx, DT, a placeholder (R220, R221). -/
  | ldVxDT (x : Nibble)
  /-- FX0A, LD Vx, K, a placeholder (R220, R221). -/
  | ldVxK (x : Nibble)
  /-- FX1E, ADD I, Vx, a placeholder (R220, R221). -/
  | addI (x : Nibble)
  /-- FX29, LD F, Vx, a placeholder (R220, R221). -/
  | ldF (x : Nibble)
  /-- FX33, LD B, Vx, a placeholder (R220, R221). -/
  | ldB (x : Nibble)
  /-- FX55, LD [I], Vx, a placeholder (R220, R221). -/
  | storeRegs (x : Nibble)
  /-- FX65, LD Vx, [I], a placeholder (R220, R221). -/
  | loadRegs (x : Nibble)
  deriving DecidableEq, Repr

end Sys2Proof
end

