-- ==== Sys2Proof/Decode.lean ====
section
/-! DEFINITION. The opcode table, the decode algorithm and the encoder (30_encoding.md). -/

namespace Sys2Proof

/-! ### Operand fields (R71) -/

/-- x = OP[11:8]. -/
def fieldX (op : Word) : Nibble := op.extractLsb' 8 4

/-- y = OP[7:4]. -/
def fieldY (op : Word) : Nibble := op.extractLsb' 4 4

/-- The 4-bit n = OP[3:0] of the placeholder DXYN (opcode_table.json; no implemented instruction has it). -/
def fieldN (op : Word) : Nibble := op.extractLsb' 0 4

/-- NN = OP[7:0]. -/
def fieldNN (op : Word) : Byte := op.extractLsb' 0 8

/-- NNN = OP[11:0]. -/
def fieldNNN (op : Word) : Addr := op.extractLsb' 0 12

/-- The leading nibble w[15:12] (R9). -/
def leadingNibble (w : Word) : Nibble := w.extractLsb' 12 4

/-! ### Masks, keys and the table -/

/-- M4 isolates the leading nibble (R75). -/
def maskM4 : Word := 0xF000

/-- M8 isolates the leading and trailing nibbles (R75). -/
def maskM8 : Word := 0xF00F

/-- M12 isolates the leading nibble and the trailing byte (R75). -/
def maskM12 : Word := 0xF0FF

/-- The masks in the order decode tries them (R78). -/
def decodeMasks : DecodeOrder → List Word
  | .narrowFirst => [maskM4, maskM8, maskM12]
  | .specificFirst => [maskM12, maskM8, maskM4]

/-- The keys of the 18 implemented instructions, each with the mask that gives it (R76).
For 0x5000 and 0x8000, where R76 names both M4 and M8, the mask is M8, the one that keeps every fixed bit of
the pattern 5XY0 or 8XY0 (R75; log entry 24, DEDUCED). -/
def implementedKeys : List (Key × Word) :=
  [(0x00E0, maskM12), (0x1000, maskM4), (0x2000, maskM4), (0x3000, maskM4), (0x4000, maskM4),
   (0x5000, maskM8), (0x6000, maskM4), (0x7000, maskM4), (0x8000, maskM8), (0x8001, maskM8),
   (0x8002, maskM8), (0x8003, maskM8), (0x8004, maskM8), (0x8005, maskM8), (0x8007, maskM8),
   (0xA000, maskM4), (0xF015, maskM12), (0xF018, maskM12)]

/-- What TABLE holds for a key (R12, R77). -/
inductive TableEntry where
  /-- The key is bound to the handler of an implemented instruction. -/
  | handler
  /-- The key is bound to the marker UNIMPL. -/
  | unimpl
  /-- The key is not in the table. -/
  | absent
  deriving DecidableEq, Repr

/-- `Table(k)` (R12, R34, R77): the implemented keys, then PLACEHOLDER_KEYS, and nothing else. -/
def tableAt (cfg : Config) (k : Key) : TableEntry :=
  if implementedKeys.any (fun row => row.1 == k) then .handler
  else if cfg.placeholderKeys.contains k then .unimpl
  else .absent

/-- `decode()` (R78): the image of OP under the first mask that gives a present key, handler or UNIMPL. -/
def decodeKey (cfg : Config) (op : Word) : Option Key :=
  ((decodeMasks cfg.decodeOrder).map (op &&& ·)).find? (fun k => tableAt cfg k != .absent)

/-- The instruction a key names, with its operands read from OP by fixed bit positions (R71, R72, R76, R221).
The key chooses the instruction and never supplies an operand. -/
def instrOfKey (k : Key) (op : Word) : Option Instr :=
  match k with
  | 0x00E0#16 => some .cls
  | 0x1000#16 => some (.jp (fieldNNN op))
  | 0x2000#16 => some (.call (fieldNNN op))
  | 0x3000#16 => some (.seByte (fieldX op) (fieldNN op))
  | 0x4000#16 => some (.sneByte (fieldX op) (fieldNN op))
  | 0x5000#16 => some (.seReg (fieldX op) (fieldY op))
  | 0x6000#16 => some (.ldByte (fieldX op) (fieldNN op))
  | 0x7000#16 => some (.addByte (fieldX op) (fieldNN op))
  | 0x8000#16 => some (.ldReg (fieldX op) (fieldY op))
  | 0x8001#16 => some (.orReg (fieldX op) (fieldY op))
  | 0x8002#16 => some (.andReg (fieldX op) (fieldY op))
  | 0x8003#16 => some (.xorReg (fieldX op) (fieldY op))
  | 0x8004#16 => some (.addReg (fieldX op) (fieldY op))
  | 0x8005#16 => some (.subReg (fieldX op) (fieldY op))
  | 0x8007#16 => some (.subnReg (fieldX op) (fieldY op))
  | 0xA000#16 => some (.ldI (fieldNNN op))
  | 0xF015#16 => some (.ldDT (fieldX op))
  | 0xF018#16 => some (.ldST (fieldX op))
  | 0x00EE#16 => some .ret
  | 0x8006#16 => some (.shr (fieldX op) (fieldY op))
  | 0x800E#16 => some (.shl (fieldX op) (fieldY op))
  | 0x9000#16 => some (.sneReg (fieldX op) (fieldY op))
  | 0xB000#16 => some (.jpV0 (fieldNNN op))
  | 0xC000#16 => some (.rnd (fieldX op) (fieldNN op))
  | 0xD000#16 => some (.drw (fieldX op) (fieldY op) (fieldN op))
  | 0xE09E#16 => some (.skp (fieldX op))
  | 0xE0A1#16 => some (.sknp (fieldX op))
  | 0xF007#16 => some (.ldVxDT (fieldX op))
  | 0xF00A#16 => some (.ldVxK (fieldX op))
  | 0xF01E#16 => some (.addI (fieldX op))
  | 0xF029#16 => some (.ldF (fieldX op))
  | 0xF033#16 => some (.ldB (fieldX op))
  | 0xF055#16 => some (.storeRegs (fieldX op))
  | 0xF065#16 => some (.loadRegs (fieldX op))
  | _ => none

/-- Why the decoder refuses a byte sequence or a word, by name. -/
inductive DecodeError where
  /-- Fewer than two bytes: no whole word (R70). -/
  | truncated
  /-- No mask gives a present key (R85, R242). -/
  | unknownOpcode (w : Word)
  /-- The key is one of a non-default PLACEHOLDER_KEYS and names no row of the opcode table (R8, R77). -/
  | unnamedPlaceholder (k : Key) (w : Word)
  deriving DecidableEq, Repr

/-- The instruction a fetched word stands for: decode, then the table's row for the key (R78, R103). -/
def decode (cfg : Config) (w : Word) : Except DecodeError Instr :=
  match decodeKey cfg w with
  | none => .error (.unknownOpcode w)
  | some k =>
    match instrOfKey k w with
    | some i => .ok i
    | none => .error (.unnamedPlaceholder k w)

/-- Big-endian, `(b0 << 8) | b1`: the byte at the lower address is bits 15..8 (R52, R53). -/
def wordOfBytes (b0 b1 : Byte) : Word := (b0.setWidth 16 <<< 8) ||| b1.setWidth 16

/-- The byte stored at the lower address: bits 15..8 (R53). -/
def highByte (w : Word) : Byte := w.extractLsb' 8 8

/-- The byte stored at the higher address: bits 7..0 (R53). -/
def lowByte (w : Word) : Byte := w.extractLsb' 0 8

/-- Decode the first instruction of a byte sequence and give the rest (R70: every instruction is two bytes). -/
def decodeBytes (cfg : Config) : List Byte → Except DecodeError (Instr × List Byte)
  | b0 :: b1 :: rest => (decode cfg (wordOfBytes b0 b1)).map (fun i => (i, rest))
  | _ => .error .truncated

/-- The instruction the normative decoder reads from an instruction whose bits, numbered as
spec/opcode_table.json numbers them, are `w`: the word is laid out in the byte order of the hardware. -/
def decodeTableWord (nbits w : Nat) : Option Instr :=
  let word := BitVec.ofNat 16 (w % 2 ^ nbits)
  match decodeBytes Config.normative [highByte word, lowByte word] with
  | .ok (i, _) => some i
  | .error _ => none

/-! ### The encoder -/

/-- The canonical key of an instruction (R76, R221). -/
def Instr.key : Instr → Key
  | .cls => 0x00E0
  | .jp _ => 0x1000
  | .call _ => 0x2000
  | .seByte _ _ => 0x3000
  | .sneByte _ _ => 0x4000
  | .seReg _ _ => 0x5000
  | .ldByte _ _ => 0x6000
  | .addByte _ _ => 0x7000
  | .ldReg _ _ => 0x8000
  | .orReg _ _ => 0x8001
  | .andReg _ _ => 0x8002
  | .xorReg _ _ => 0x8003
  | .addReg _ _ => 0x8004
  | .subReg _ _ => 0x8005
  | .subnReg _ _ => 0x8007
  | .ldI _ => 0xA000
  | .ldDT _ => 0xF015
  | .ldST _ => 0xF018
  | .ret => 0x00EE
  | .shr _ _ => 0x8006
  | .shl _ _ => 0x800E
  | .sneReg _ _ => 0x9000
  | .jpV0 _ => 0xB000
  | .rnd _ _ => 0xC000
  | .drw _ _ _ => 0xD000
  | .skp _ => 0xE09E
  | .sknp _ => 0xE0A1
  | .ldVxDT _ => 0xF007
  | .ldVxK _ => 0xF00A
  | .addI _ => 0xF01E
  | .ldF _ => 0xF029
  | .ldB _ => 0xF033
  | .storeRegs _ => 0xF055
  | .loadRegs _ => 0xF065

/-- Format FA: a leading nibble and an address (R73). -/
def formatFA (op : Nibble) (nnn : Addr) : Word :=
  (op.setWidth 16 <<< 12) ||| nnn.setWidth 16

/-- Format FB: a leading nibble, a register and a byte (R73). -/
def formatFB (op x : Nibble) (nn : Byte) : Word :=
  (op.setWidth 16 <<< 12) ||| (x.setWidth 16 <<< 8) ||| nn.setWidth 16

/-- Format FR: a leading nibble, two registers and a trailing nibble (R73). -/
def formatFR (op x y fn : Nibble) : Word :=
  (op.setWidth 16 <<< 12) ||| (x.setWidth 16 <<< 8) ||| (y.setWidth 16 <<< 4) ||| fn.setWidth 16

/-- Format FX: a leading nibble, a register and a trailing byte (R73). -/
def formatFX (op x : Nibble) (sub : Byte) : Word :=
  (op.setWidth 16 <<< 12) ||| (x.setWidth 16 <<< 8) ||| sub.setWidth 16

/-- The word of an instruction, from the formats of R73, the words of R87 and the rows of opcode_table.json. -/
def encode : Instr → Word
  | .cls => 0x00E0
  | .jp nnn => formatFA 0x1 nnn
  | .call nnn => formatFA 0x2 nnn
  | .seByte x nn => formatFB 0x3 x nn
  | .sneByte x nn => formatFB 0x4 x nn
  | .seReg x y => formatFR 0x5 x y 0x0
  | .ldByte x nn => formatFB 0x6 x nn
  | .addByte x nn => formatFB 0x7 x nn
  | .ldReg x y => formatFR 0x8 x y 0x0
  | .orReg x y => formatFR 0x8 x y 0x1
  | .andReg x y => formatFR 0x8 x y 0x2
  | .xorReg x y => formatFR 0x8 x y 0x3
  | .addReg x y => formatFR 0x8 x y 0x4
  | .subReg x y => formatFR 0x8 x y 0x5
  | .subnReg x y => formatFR 0x8 x y 0x7
  | .ldI nnn => formatFA 0xA nnn
  | .ldDT x => formatFX 0xF x 0x15
  | .ldST x => formatFX 0xF x 0x18
  | .ret => 0x00EE
  | .shr x y => formatFR 0x8 x y 0x6
  | .shl x y => formatFR 0x8 x y 0xE
  | .sneReg x y => formatFR 0x9 x y 0x0
  | .jpV0 nnn => formatFA 0xB nnn
  | .rnd x nn => formatFB 0xC x nn
  | .drw x y n => formatFR 0xD x y n
  | .skp x => formatFX 0xE x 0x9E
  | .sknp x => formatFX 0xE x 0xA1
  | .ldVxDT x => formatFX 0xF x 0x07
  | .ldVxK x => formatFX 0xF x 0x0A
  | .addI x => formatFX 0xF x 0x1E
  | .ldF x => formatFX 0xF x 0x29
  | .ldB x => formatFX 0xF x 0x33
  | .storeRegs x => formatFX 0xF x 0x55
  | .loadRegs x => formatFX 0xF x 0x65

/-- The two bytes of an instruction as they lie in the byte store, lower address first (R53, R283). -/
def encodeBytes (i : Instr) : List Byte := [highByte (encode i), lowByte (encode i)]

/-- The assembler spelling of an instruction as R87 and R221 give it, operands by the names of the fields.
The source defines no assembler language; the spellings carry no meaning (D16). -/
def Instr.spelling : Instr → String
  | .cls => "CLS"
  | .jp _ => "JP addr"
  | .call _ => "CALL addr"
  | .seByte _ _ => "SE Vx, byte"
  | .sneByte _ _ => "SNE Vx, byte"
  | .seReg _ _ => "SE Vx, Vy"
  | .ldByte _ _ => "LD Vx, byte"
  | .addByte _ _ => "ADD Vx, byte"
  | .ldReg _ _ => "LD Vx, Vy"
  | .orReg _ _ => "OR Vx, Vy"
  | .andReg _ _ => "AND Vx, Vy"
  | .xorReg _ _ => "XOR Vx, Vy"
  | .addReg _ _ => "ADD Vx, Vy"
  | .subReg _ _ => "SUB Vx, Vy"
  | .subnReg _ _ => "SUBN Vx, Vy"
  | .ldI _ => "LD I, addr"
  | .ldDT _ => "LD DT, Vx"
  | .ldST _ => "LD ST, Vx"
  | .ret => "RET"
  | .shr _ _ => "SHR Vx, Vy"
  | .shl _ _ => "SHL Vx, Vy"
  | .sneReg _ _ => "SNE Vx, Vy"
  | .jpV0 _ => "JP V0, addr"
  | .rnd _ _ => "RND Vx, byte"
  | .drw _ _ _ => "DRW Vx, Vy, n"
  | .skp _ => "SKP Vx"
  | .sknp _ => "SKNP Vx"
  | .ldVxDT _ => "LD Vx, DT"
  | .ldVxK _ => "LD Vx, K"
  | .addI _ => "ADD I, Vx"
  | .ldF _ => "LD F, Vx"
  | .ldB _ => "LD B, Vx"
  | .storeRegs _ => "LD [I], Vx"
  | .loadRegs _ => "LD Vx, [I]"

/-! ### The constraint on PLACEHOLDER_KEYS (R79) -/

/-- The masks tried before the mask `m` in the decode order (R79). -/
def masksBefore (order : DecodeOrder) (m : Word) : List Word :=
  (decodeMasks order).takeWhile (fun m' => m' != m)

/-- Whether some word of the pattern with key `k` and mask `km` has the image `p` under `m`: `p` keeps no bit
outside `m`, and agrees with `k` on the bits both masks keep. -/
def imageOfPattern (k km m p : Word) : Bool :=
  p &&& ~~~m == 0 && p &&& km == k &&& m

/-- R79's check: no placeholder key is the image of a word of an implemented pattern under a mask tried earlier. -/
def placeholdersAllowed (cfg : Config) : Bool :=
  implementedKeys.all fun row =>
    (masksBefore cfg.decodeOrder row.2).all fun m =>
      cfg.placeholderKeys.all fun p => !imageOfPattern row.1 row.2 m p

/-- No key is both implemented and a placeholder: R77 binds each key to one entry. -/
def placeholdersDisjoint (cfg : Config) : Bool :=
  cfg.placeholderKeys.all fun p => !implementedKeys.any fun row => row.1 == p

end Sys2Proof
end

