-- ==== Sys2Proof/Machine/State.lean ====
section
/-! DEFINITION. The state of the machine as plain data, the errors, commands and responses of the host interface, and the state after reset. -/

namespace Sys2Proof.Machine

/-- The five error conditions of R240, with the information each records. -/
inductive CoreError where
  /-- Code 1: a byte position < 0 or >= MEM_SIZE in a fetch (R52, R241). -/
  | outOfRange (position : Int)
  /-- Code 2: no mask gives a present key for the word in OP (R242). -/
  | unknownOpcode (word : Word)
  /-- Code 3: EXECUTE of a key absent from TABLE (R243). -/
  | dispatchKeyNotFound (key : Key)
  /-- Code 4: the key is bound to UNIMPL; key and OP (R220, R244). -/
  | unimplemented (key : Key) (op : Word)
  /-- Code 5: a call with all sixteen slots in use; PC and NNN (R137). -/
  | stackOverflow (pc : Word) (nnn : Addr)
  deriving DecidableEq, Repr

/-- The host commands of R101. -/
inductive HostCommand where
  /-- Construct the core anew (R280, R282). -/
  | reset
  /-- Read the word at a position, changing nothing (R102). -/
  | fetch (a : Int)
  /-- Store a word as the current opcode (R104). -/
  | latch (w : Word)
  /-- Decode OP (R106). -/
  | decode
  /-- Invoke the handler of a key (R103). -/
  | execute (k : Key)
  /-- Fetch at PC, store as OP, decode, execute (R105). -/
  | cycle
  deriving DecidableEq, Repr

/-- The system steps of R112, and the host's calls of the display collaborator (R6, R59; log entry 8). -/
inductive SysStep where
  /-- (a) A core transaction on a host command. -/
  | command (c : HostCommand)
  /-- (b) The host reads a byte of the byte store (R50, R65). -/
  | getByte (position : Int)
  /-- (b) The host writes a byte of the byte store (R50, R65). -/
  | setByte (position : Int) (b : Byte)
  /-- (c) A TimerDriver tick (R207). -/
  | tick
  /-- (d) The host reads core state; this writes nothing (R112). -/
  | readState
  /-- The host clears the display (R59). -/
  | clearDisplay
  /-- The host sets one cell of the display (R59). -/
  | setPixel (x y : Int) (isOn : Bool)
  /-- The host reads one cell of the display (R59). -/
  | getPixel (x y : Int)
  deriving DecidableEq, Repr

/-- What the host was answered by its last command or access (R101, R50, R59). -/
inductive Response where
  /-- Nothing has been answered yet (log entry 18). -/
  | nothing
  /-- OK: RESET, LATCH, EXECUTE or CYCLE, or a host write, succeeded. -/
  | ok
  /-- WORD(w), of FETCH (R102). -/
  | word (w : Word)
  /-- KEY(k), of DECODE (R106). -/
  | key (k : Key)
  /-- ERR(code, info), of a command that failed (R240, R246). -/
  | err (e : CoreError)
  /-- The byte a host getByte read (R50). -/
  | byte (b : Byte)
  /-- A host getByte or setByte failed at this position; the core is not involved (R50, R241; log entry 9). -/
  | storeOutOfRange (position : Int)
  /-- The cell a host getPixel read (R59). -/
  | pixel (isOn : Bool)
  deriving DecidableEq, Repr

/-- What stops the machine. The five errors of R240 do not: they are responses (R246), recorded in `faultLog`. -/
inductive Fault where
  /-- Raised by a host setPixel or getPixel at a coordinate outside the display: "undefined behavior at the
  collaborator" (R59), and a model of the collaborator must fault on it (D24, U2). Safe: the model stops where a
  real display might go on. -/
  | displayOutOfRange (x y : Int)
  deriving DecidableEq, Repr

/-- Why an instruction has no meaning. -/
inductive Refusal where
  /-- Raised by an arm of exec that has no meaning yet; no arm is in that case. Safe: the model stops. -/
  | notModelled (mnemonic : String)
  deriving DecidableEq, Repr

/-- The byte store as data: address and byte, addresses strictly rising, no byte equal to what an unlisted
address reads as (R50). -/
abbrev Memory := List Host.Cell

/-- The display as data: the numbers y * DISPLAY_W + x of the cells that are on, strictly rising (R59). -/
abbrev Display := List Nat

/-- The machine: the core state of R37, the external state of R37, the configuration of R8, and the model's own
record of what the other agents will do next and have been answered (log entries 1 and 2). -/
structure State where
  /-- V0..VF (R20); V[0xF] is the carry/borrow flag VF (R22). -/
  v : Vector Byte 16
  /-- The index register I (R28). -/
  ireg : Word
  /-- The program counter (R25). -/
  pc : Word
  /-- STACK[0..15] (R29). -/
  stack : Vector Word 16
  /-- SP, 0..16, the number of slots in use (R30). -/
  sp : Fin 17
  /-- The delay timer DT (R31). -/
  dt : Byte
  /-- The sound timer ST (R31). -/
  st : Byte
  /-- The current-opcode register OP (R33). -/
  op : Word
  /-- The byte store MEM (R37, R50). -/
  mem : Memory
  /-- The display surface (R37, R59). -/
  display : Display
  /-- The parameters of R8; no step writes them (R34). -/
  config : Config
  /-- The system steps lined up to happen next, first first; none means the run loop issues CYCLE (R112, R113). -/
  pending : List SysStep
  /-- The host's last answer (R101). -/
  response : Response
  /-- Every error of the core so far, oldest first; no step clears it (R247). -/
  faultLog : List CoreError
  deriving DecidableEq, Repr

/-- The machine right after reset: the core state of R36, the normative configuration, nothing in the byte store,
no cell on, nothing pending, no error recorded (log entries 3 to 6). -/
def State.reset : State where
  v := Vector.replicate 16 0
  ireg := 0
  pc := 0x200
  stack := Vector.replicate 16 0
  sp := 0
  dt := 0
  st := 0
  op := 0
  mem := []
  display := []
  config := Config.normative
  pending := []
  response := .nothing
  faultLog := []

end Sys2Proof.Machine
end

