-- ==== Sys2Proof/Machine/Ops.lean ====
section
/-! DEFINITION. The named operations over registers, byte store, display and fault log that every meaning is built from. -/

namespace Sys2Proof.Machine

/-- Short for the outcome of a step of this machine. -/
abbrev StepResult := Host.Outcome State Fault Refusal

/-! ### General registers and the other core registers -/

/-- `V[i]` (R11, R20). -/
def State.readV (s : State) (i : Nibble) : Byte := s.v[i.toNat]'(i.isLt)

/-- `V[i] <- b` (R11, R21); V[0xF] is written like any other (R22). -/
def State.writeV (s : State) (i : Nibble) (b : Byte) : State :=
  { s with v := s.v.set i.toNat b i.isLt }

/-- `I <- w` (R28). -/
def State.setI (s : State) (w : Word) : State := { s with ireg := w }

/-- `DT <- b` (R31). -/
def State.setDT (s : State) (b : Byte) : State := { s with dt := b }

/-- `ST <- b` (R31). -/
def State.setST (s : State) (b : Byte) : State := { s with st := b }

/-- `OP <- w`: the store step of runCycle and the LATCH command (R104, R105). -/
def State.setOP (s : State) (w : Word) : State := { s with op := w }

/-! ### The program-counter sequencer (R109, R110) -/

/-- `PC <- target`: the absolute target of a jump or call (R26). -/
def State.setPC (s : State) (target : Word) : State := { s with pc := target }

/-- `increaseProgramCounter()`: PC <- (PC + 2) mod 2^16 (R27, R110). -/
def State.increaseProgramCounter (s : State) : State := s.setPC (s.pc + 2)

/-- `skipInstruction()`: PC <- (PC + 4) mod 2^16 (R27, R110). -/
def State.skipInstruction (s : State) : State := s.setPC (s.pc + 4)

/-- A conditional skip: PC + 4 when taken, PC + 2 otherwise (R26, R139). -/
def State.skipIf (s : State) (taken : Bool) : State :=
  if taken then s.skipInstruction else s.increaseProgramCounter

/-! ### The call stack (R29, R30) -/

/-- `STACK[SP] <- w; SP <- SP + 1`, when a slot is free (R136). -/
def State.push (s : State) (w : Word) (free : s.sp.val < 16) : State :=
  { s with stack := s.stack.set s.sp.val w free, sp := ⟨s.sp.val + 1, Nat.succ_lt_succ free⟩ }

/-! ### The system steps lined up (R112) -/

/-- The first pending system step is taken off the list; with nothing pending, nothing changes (log entry 2). -/
def State.dropHead (s : State) : State := { s with pending := s.pending.tail }

/-! ### The outcome of a command (R101, R246) -/

/-- Answer the host. -/
def State.respond (s : State) (r : Response) : State := { s with response := r }

/-- The command succeeded: respond OK (R101). -/
def State.complete (s : State) : StepResult := .next (s.respond .ok)

/-- Raising an error, the one operation for all five (R12 `raise`, R246): the core saves nothing, changes no mode and
jumps nowhere; the command responds ERR and the error is recorded in the fault log (R247). There is no return from
an error (R250), so no operation stands beside this one. -/
def State.recordError (s : State) (e : CoreError) : State :=
  { s with response := .err e, faultLog := s.faultLog ++ [e] }

/-- The command ends with the error `e`: a next state in which the core state is as it stands (R245). -/
def State.raise (s : State) (e : CoreError) : StepResult := .next (s.recordError e)

/-- The code of an error (R240, D5). -/
def errorCode : CoreError → Nat
  | .outOfRange _ => 1
  | .unknownOpcode _ => 2
  | .dispatchKeyNotFound _ => 3
  | .unimplemented _ _ => 4
  | .stackOverflow _ _ => 5

/-! ### The byte store (R50) -/

/-- What a position nothing has written reads as. The spec states no initial contents (D10); this is the model's
choice (log entry 4, DESIGN CHOICE, unsafe for claims about State.reset's own memory). -/
def unlistedByte : Byte := 0

/-- The byte at an address. -/
def readMem : Memory → Nat → Byte
  | [], _ => unlistedByte
  | c :: rest, a => if c.1 = a then c.2 else readMem rest a

/-- The list with one address written, in the canonical form. -/
def writeMem : Memory → Nat → Byte → Memory
  | [], a, b => if b = unlistedByte then [] else [(a, b)]
  | c :: rest, a, b =>
    if a < c.1 then (if b = unlistedByte then c :: rest else (a, b) :: c :: rest)
    else if a = c.1 then (if b = unlistedByte then rest else (a, b) :: rest)
    else c :: writeMem rest a b

/-- The canonical form: addresses strictly rising from `lo`, no byte equal to the unlisted one. -/
def canonicalFrom : Nat → Memory → Bool
  | _, [] => true
  | lo, c :: rest => decide (lo ≤ c.1) && decide (c.2 ≠ unlistedByte) && canonicalFrom (c.1 + 1) rest

/-- The canonical form holds. -/
def Memory.wf (m : Memory) : Bool := canonicalFrom 0 m

/-- Every listed address is below the capacity (R50). -/
def withinCapacity (memSize : Nat) (m : Memory) : Bool := m.all fun c => decide (c.1 < memSize)

/-- A position is valid when it is not negative and below MEM_SIZE (R50). -/
def State.validPosition (s : State) (p : Int) : Bool := decide (0 ≤ p) && decide (p < s.config.memSize)

/-- `MemRead(p, 1)`, getByte: the byte, or the out-of-range condition (R12, R50). -/
def State.getByte (s : State) (p : Int) : Option Byte :=
  if s.validPosition p then some (readMem s.mem p.toNat) else none

/-- `MemWrite(p, 1, b)`, setByte: the state with the byte written, or the out-of-range condition (R12, R50). -/
def State.setByte (s : State) (p : Int) (b : Byte) : Option State :=
  if s.validPosition p then some { s with mem := writeMem s.mem p.toNat b } else none

/-- `fetch(a)`: two consecutive bytes, the lower address first and most significant; OutOfRange carries the first
position that fails (R52, R53, D5). No alignment is asked (R54). -/
def State.fetch (s : State) (a : Int) : Except CoreError Word :=
  match s.getByte a with
  | none => .error (.outOfRange a)
  | some b0 =>
    match s.getByte (a + 1) with
    | none => .error (.outOfRange (a + 1))
    | some b1 => .ok (wordOfBytes b0 b1)

/-- PC as a byte position (R25). -/
def State.pcPosition (s : State) : Int := s.pc.toNat

/-- Bytes written one after another from a position on, as the host loads an image (R283); a byte that would
fall outside the store is not written (R50). -/
def State.loadBytes : State → Nat → List Byte → State
  | s, _, [] => s
  | s, p, b :: rest => ((s.setByte p b).getD s).loadBytes (p + 1) rest

/-! ### The display surface (R59) -/

/-- `DisplayClear()`: every cell off (R12, R59). -/
def State.displayClear (s : State) : State := { s with display := [] }

/-- A number put into a strictly rising list. -/
def insertCell : Display → Nat → Display
  | [], n => [n]
  | c :: rest, n => if n < c then n :: c :: rest else if n = c then c :: rest else c :: insertCell rest n

/-- A number taken out of a list. -/
def removeCell (d : Display) (n : Nat) : Display := d.filter (fun c => c != n)

/-- The canonical form of a display: strictly rising from `lo`. -/
def risingFrom : Nat → Display → Bool
  | _, [] => true
  | lo, c :: rest => decide (lo ≤ c) && risingFrom (c + 1) rest

/-- The canonical form, and every cell a cell of the display (R59). -/
def displayWf (cfg : Config) (d : Display) : Bool :=
  risingFrom 0 d && d.all fun c => decide (c < cfg.displayW * cfg.displayH)

/-- A coordinate of the display (R59). -/
def State.validCell (s : State) (x y : Int) : Bool :=
  decide (0 ≤ x) && decide (x < s.config.displayW) && decide (0 ≤ y) && decide (y < s.config.displayH)

/-- The number of a cell: rows one after another. -/
def State.cellNumber (s : State) (x y : Int) : Nat := y.toNat * s.config.displayW + x.toNat

/-- `setPixel(x, y, isOn)` at a coordinate of the display (R59). -/
def State.setPixel (s : State) (x y : Int) (isOn : Bool) : State :=
  { s with display :=
      if isOn then insertCell s.display (s.cellNumber x y) else removeCell s.display (s.cellNumber x y) }

/-- `getPixel(x, y)` at a coordinate of the display (R59). -/
def State.getPixel (s : State) (x y : Int) : Bool := s.display.contains (s.cellNumber x y)

/-! ### The TimerDriver and RESET -/

/-- One TimerDriver tick (R207): the default, or the driver's own rule as a free value (log entry 7). -/
def State.tick (s : State) : State :=
  match s.config.timerTick with
  | .saturatingDecrement =>
    { s with dt := if s.dt = 0 then 0 else s.dt - 1, st := if s.st = 0 then 0 else s.st - 1 }
  | .driverRule => { s with dt := (Config.driverTick s.dt s.st).1, st := (Config.driverTick s.dt s.st).2 }

/-- RESET: every core state item to its value in R36; the byte store, the display and the configuration stay
(R280, R282). What the model records for the host stays too (R247; log entry 11). -/
def State.resetCore (s : State) : State :=
  { s with
    v := Vector.replicate 16 0
    ireg := 0
    pc := 0x200
    stack := Vector.replicate 16 0
    sp := 0
    dt := 0
    st := 0
    op := 0 }

end Sys2Proof.Machine
end

