-- ==== Sys2Proof/Machine/Operands.lean ====
section
/-! DEFINITION. The operand forms of the handlers: a register's value, the byte immediate NN, the address immediate NNN (R71, R74). -/

namespace Sys2Proof.Machine

/-- A register operand x or y: the value of V at that index (R71). -/
def regOperand (s : State) (i : Nibble) : Byte := s.readV i

/-- The byte immediate NN, an unsigned 8-bit value used as it stands (R74). -/
def byteOperand (nn : Byte) : Byte := nn

/-- The address immediate NNN as a PC target: zext_16(NNN) (R74, R133, R136). -/
def addrOperand (nnn : Addr) : Word := nnn.setWidth 16

/-- The address immediate NNN as an index value: zext_16(NNN) & 0x0FFF (R28, R200). -/
def indexOperand (nnn : Addr) : Word := addrOperand nnn &&& 0x0FFF

/-- A register-to-register operation without a flag: V[x] <- f(V[x], V[y]), both read before the write, then PC + 2
(42_register_alu.md, "Every read of V[x] and V[y] in a rule happens before that rule's first write"). -/
def regRegOp (f : Byte → Byte → Byte) (x y : Nibble) (s : State) : StepResult :=
  ((s.writeV x (f (regOperand s x) (regOperand s y))).increaseProgramCounter).complete

end Sys2Proof.Machine
end

