-- ==== Sys2Proof/Machine/Flags.lean ====
section
/-! DEFINITION. The carry/borrow flag VF and the three rules that compute it (R22, R24, R173, R176, R179). -/

namespace Sys2Proof.Machine

/-- The index of VF (R7, FLAG_INDEX). -/
def flagIndex : Nibble := 0xF

/-- `setCarry(b)`: VF <- 1 or 0 (R22, R110). -/
def State.setCarry (s : State) (b : Bool) : State := s.writeV flagIndex (if b then 1 else 0)

/-- The exact sum of two bytes, 0..510 (R173). -/
def exactSum (a b : Byte) : Nat := a.toNat + b.toNat

/-- The carry of an addition: the sum is above 255 (R173). -/
def carryOfSum (sum : Nat) : Bool := decide (sum > 255)

/-- The exact difference of two bytes, -255..255 (R176, R179). -/
def exactDiff (a b : Byte) : Int := (a.toNat : Int) - (b.toNat : Int)

/-- The flag of a subtraction, by SUB_FLAG_RULE (R176, R179, D3). -/
def flagOfDiff (rule : SubFlagRule) (diff : Int) : Bool :=
  match rule with
  | .positiveDiff => decide (diff > 0)
  | .noBorrow => decide (diff ≥ 0)

/-- V[x] <- the result, then VF <- the flag, then PC + 2: the flag write comes last, so with x = 0xF the flag is what
VF keeps (R173, R175, R176, R179, D18; log entry 12). -/
def resultThenFlag (x : Nibble) (result : Byte) (flag : Bool) (s : State) : StepResult :=
  (((s.writeV x result).setCarry flag).increaseProgramCounter).complete

/-- V[x] <- diff mod 256 with its flag, for the exact difference a - b (R176, R179). -/
def subtractInto (x : Nibble) (a b : Byte) (s : State) : StepResult :=
  resultThenFlag x (BitVec.ofInt 8 (exactDiff a b)) (flagOfDiff s.config.subFlagRule (exactDiff a b)) s

end Sys2Proof.Machine
end

