-- ==== Sys2Proof/Machine/ControlFlow.lean ====
section
/-! DEFINITION. Screen clear, jump, call and the conditional skips (41_screen_and_control_flow.md). -/

namespace Sys2Proof.Machine

/-- 00E0: every display cell off, PC + 2 (R131). -/
def execCls (s : State) : StepResult := (s.displayClear.increaseProgramCounter).complete

/-- 1NNN: PC <- NNN, with no PC + 2 (R133). -/
def execJp (nnn : Addr) (s : State) : StepResult := (s.setPC (addrOperand nnn)).complete

/-- 2NNN: the call's own address to STACK[SP], SP + 1, PC <- NNN (R136); StackOverflow(PC, NNN) before any write when
all sixteen slots are in use (R137, D4; log entry 13). -/
def execCall (nnn : Addr) (s : State) : StepResult :=
  if free : s.sp.val < 16 then ((s.push s.pc free).setPC (addrOperand nnn)).complete
  else s.raise (.stackOverflow s.pc nnn)

/-- 3XNN: PC + 4 if V[x] = NN, else PC + 2 (R140). -/
def execSeByte (x : Nibble) (nn : Byte) (s : State) : StepResult :=
  (s.skipIf (regOperand s x == byteOperand nn)).complete

/-- 4XNN: PC + 4 if V[x] is not NN, else PC + 2 (R142). -/
def execSneByte (x : Nibble) (nn : Byte) (s : State) : StepResult :=
  (s.skipIf (regOperand s x != byteOperand nn)).complete

/-- 5XY0: PC + 4 if V[x] = V[y], else PC + 2 (R144). -/
def execSeReg (x y : Nibble) (s : State) : StepResult :=
  (s.skipIf (regOperand s x == regOperand s y)).complete

end Sys2Proof.Machine
end

