-- ==== Sys2Proof/Machine/IndexTimers.lean ====
section
/-! DEFINITION. Index register load and timer counters (43_index_and_timers.md). -/

namespace Sys2Proof.Machine

/-- ANNN: I <- NNN masked to 12 bits, PC + 2 (R200). -/
def execLdI (nnn : Addr) (s : State) : StepResult :=
  ((s.setI (indexOperand nnn)).increaseProgramCounter).complete

/-- FX15: DT <- V[x], PC + 2 (R202). -/
def execLdDT (x : Nibble) (s : State) : StepResult :=
  ((s.setDT (regOperand s x)).increaseProgramCounter).complete

/-- FX18: ST <- V[x], PC + 2 (R204). -/
def execLdST (x : Nibble) (s : State) : StepResult :=
  ((s.setST (regOperand s x)).increaseProgramCounter).complete

end Sys2Proof.Machine
end

