-- ==== Sys2Proof/Machine/Placeholders.lean ====
section
/-! DEFINITION. The sixteen placeholder instructions: each raises Unimplemented(key, OP) before any state change (44_unimplemented.md R220).
The conventional meanings of R221 are not given by the spec ("None of them is executed", 93_implementation_defined.md G5). -/

namespace Sys2Proof.Machine

/-- What a key bound to UNIMPL does when it is executed: raise Unimplemented(k, OP); PC, registers, stack, timers and
display keep their values (R220, R244). -/
def raiseUnimplemented (k : Key) (s : State) : StepResult := s.raise (.unimplemented k s.op)

/-- 00EE: a placeholder (R220, R221). -/
def execRet (s : State) : StepResult := raiseUnimplemented 0x00EE s

/-- 8XY6: a placeholder (R220, R221). -/
def execShr (_x : Nibble) (_y : Nibble) (s : State) : StepResult := raiseUnimplemented 0x8006 s

/-- 8XYE: a placeholder (R220, R221). -/
def execShl (_x : Nibble) (_y : Nibble) (s : State) : StepResult := raiseUnimplemented 0x800E s

/-- 9XY0: a placeholder (R220, R221). -/
def execSneReg (_x : Nibble) (_y : Nibble) (s : State) : StepResult := raiseUnimplemented 0x9000 s

/-- BNNN: a placeholder (R220, R221). -/
def execJpV0 (_nnn : Addr) (s : State) : StepResult := raiseUnimplemented 0xB000 s

/-- CXNN: a placeholder (R220, R221). -/
def execRnd (_x : Nibble) (_nn : Byte) (s : State) : StepResult := raiseUnimplemented 0xC000 s

/-- DXYN: a placeholder (R220, R221). -/
def execDrw (_x : Nibble) (_y : Nibble) (_n : Nibble) (s : State) : StepResult := raiseUnimplemented 0xD000 s

/-- EX9E: a placeholder (R220, R221). -/
def execSkp (_x : Nibble) (s : State) : StepResult := raiseUnimplemented 0xE09E s

/-- EXA1: a placeholder (R220, R221). -/
def execSknp (_x : Nibble) (s : State) : StepResult := raiseUnimplemented 0xE0A1 s

/-- FX07: a placeholder (R220, R221). -/
def execLdVxDT (_x : Nibble) (s : State) : StepResult := raiseUnimplemented 0xF007 s

/-- FX0A: a placeholder (R220, R221). -/
def execLdVxK (_x : Nibble) (s : State) : StepResult := raiseUnimplemented 0xF00A s

/-- FX1E: a placeholder (R220, R221). -/
def execAddI (_x : Nibble) (s : State) : StepResult := raiseUnimplemented 0xF01E s

/-- FX29: a placeholder (R220, R221). -/
def execLdF (_x : Nibble) (s : State) : StepResult := raiseUnimplemented 0xF029 s

/-- FX33: a placeholder (R220, R221). -/
def execLdB (_x : Nibble) (s : State) : StepResult := raiseUnimplemented 0xF033 s

/-- FX55: a placeholder (R220, R221). -/
def execStoreRegs (_x : Nibble) (s : State) : StepResult := raiseUnimplemented 0xF055 s

/-- FX65: a placeholder (R220, R221). -/
def execLoadRegs (_x : Nibble) (s : State) : StepResult := raiseUnimplemented 0xF065 s

end Sys2Proof.Machine
end

