-- ==== Sys2Proof/Machine/RegisterAlu.lean ====
section
/-! DEFINITION. Register load and ALU (42_register_alu.md). -/

namespace Sys2Proof.Machine

/-- 6XNN: V[x] <- NN, PC + 2 (R160). -/
def execLdByte (x : Nibble) (nn : Byte) (s : State) : StepResult :=
  ((s.writeV x (byteOperand nn)).increaseProgramCounter).complete

/-- 7XNN: V[x] <- (V[x] + NN) mod 256, PC + 2; the carry is discarded (R162). -/
def execAddByte (x : Nibble) (nn : Byte) (s : State) : StepResult :=
  ((s.writeV x (BitVec.ofNat 8 (exactSum (regOperand s x) (byteOperand nn)))).increaseProgramCounter).complete

/-- 8XY0: V[x] <- V[y], PC + 2 (R165). -/
def execLdReg (x y : Nibble) (s : State) : StepResult := regRegOp (fun _ b => b) x y s

/-- 8XY1: V[x] <- V[x] | V[y], PC + 2; VF is not reset (R167). -/
def execOrReg (x y : Nibble) (s : State) : StepResult := regRegOp (fun a b => a ||| b) x y s

/-- 8XY2: V[x] <- V[x] & V[y], PC + 2 (R169). -/
def execAndReg (x y : Nibble) (s : State) : StepResult := regRegOp (fun a b => a &&& b) x y s

/-- 8XY3: V[x] <- V[x] ^ V[y], PC + 2 (R171). -/
def execXorReg (x y : Nibble) (s : State) : StepResult := regRegOp (fun a b => a ^^^ b) x y s

/-- 8XY4: V[x] <- sum mod 256, then VF <- (sum > 255), PC + 2 (R173, R175). -/
def execAddReg (x y : Nibble) (s : State) : StepResult :=
  resultThenFlag x (BitVec.ofNat 8 (exactSum (regOperand s x) (regOperand s y)))
    (carryOfSum (exactSum (regOperand s x) (regOperand s y))) s

/-- 8XY5: V[x] <- (V[x] - V[y]) mod 256, then VF by SUB_FLAG_RULE, PC + 2 (R176). -/
def execSubReg (x y : Nibble) (s : State) : StepResult :=
  subtractInto x (regOperand s x) (regOperand s y) s

/-- 8XY7: V[x] <- (V[y] - V[x]) mod 256, then VF by SUB_FLAG_RULE, PC + 2 (R179). -/
def execSubnReg (x y : Nibble) (s : State) : StepResult :=
  subtractInto x (regOperand s y) (regOperand s x) s

end Sys2Proof.Machine
end

