-- ==== Sys2Proof/Machine/Engine.lean ====
section
/-! DEFINITION. The engine: execute, the cycle, the host commands, the other agents' steps, and which of them comes next (40_dispatch_cycle.md). -/

namespace Sys2Proof.Machine

/-- `execute(k)` (R103): an absent key raises DispatchKeyNotFound; any other key runs what TABLE binds it to, with the
fields of OP (R72). A key bound to UNIMPL is a placeholder instruction of the table (whose meaning raises
Unimplemented), or a key of a non-default PLACEHOLDER_KEYS that names no row and raises Unimplemented here. -/
def State.execute (s : State) (k : Key) : StepResult :=
  match tableAt s.config k with
  | .absent => s.raise (.dispatchKeyNotFound k)
  | .handler | .unimpl =>
    match instrOfKey k s.op with
    | some i => exec i s
    | none => raiseUnimplemented k s

/-- runCycle on a fetched word: store it as the current opcode, decode, execute (R105). -/
def State.runWord (s : State) (w : Word) : StepResult :=
  match decodeKey s.config w with
  | none => (s.setOP w).raise (.unknownOpcode w)
  | some k => (s.setOP w).execute k

/-- CYCLE, runCycle: fetch at PC, store as current opcode, decode, execute; a failing step ends it (R105). -/
def State.cycle (s : State) : StepResult :=
  match s.fetch s.pcPosition with
  | .error e => s.raise e
  | .ok w => s.runWord w

/-- FETCH(a) (R102): the word or OutOfRange; no core state is written. -/
def State.fetchCommand (s : State) (a : Int) : StepResult :=
  match s.fetch a with
  | .error e => s.raise e
  | .ok w => .next (s.respond (.word w))

/-- DECODE (R106): the key for the current OP, or UnknownOpcode(OP); no core state is written. -/
def State.decodeCommand (s : State) : StepResult :=
  match decodeKey s.config s.op with
  | none => s.raise (.unknownOpcode s.op)
  | some k => .next (s.respond (.key k))

/-- A core transaction on a host command (R101). -/
def State.runCommand (s : State) : HostCommand → StepResult
  | .reset => s.resetCore.complete
  | .fetch a => s.fetchCommand a
  | .latch w => (s.setOP w).complete
  | .decode => s.decodeCommand
  | .execute k => s.execute k
  | .cycle => s.cycle

/-- One system step (R112): a core transaction, a host access of a collaborator (R50, R59, R65), a TimerDriver tick
(R207), or a host read of core state, which writes nothing. -/
def State.runSysStep (s : State) : SysStep → StepResult
  | .command c => s.runCommand c
  | .getByte p =>
    match s.getByte p with
    | some b => .next (s.respond (.byte b))
    | none => .next (s.respond (.storeOutOfRange p))
  | .setByte p b =>
    match s.setByte p b with
    | some s' => s'.complete
    | none => .next (s.respond (.storeOutOfRange p))
  | .tick => .next s.tick
  | .readState => .next s
  | .clearDisplay => s.displayClear.complete
  | .setPixel x y isOn =>
    if s.validCell x y then (s.setPixel x y isOn).complete else .fault (.displayOutOfRange x y)
  | .getPixel x y =>
    if s.validCell x y then .next (s.respond (.pixel (s.getPixel x y))) else .fault (.displayOutOfRange x y)

/-- The next system step: the first of `pending`, which leaves the list; when nothing is pending the host's run loop
issues CYCLE (R112, R113; log entry 2). -/
def State.runNext (s : State) : StepResult :=
  match s.pending with
  | [] => s.cycle
  | e :: _ => s.dropHead.runSysStep e

/-- The host's boot sequence as system steps: the image byte by byte from 0x200 on, then RESET (R283). -/
def bootSteps (image : List Byte) : List SysStep :=
  loadSteps 0x200 image ++ [.command .reset]
where
  /-- setByte for each byte, at rising positions (R283). -/
  loadSteps : Nat → List Byte → List SysStep
    | _, [] => []
    | p, b :: rest => .setByte p b :: loadSteps (p + 1) rest

/-- The instruction word `w` stored where the next CYCLE fetches, with nothing else pending, so that the next step is
that CYCLE (R105, R283; log entry 16). -/
def State.placeWord (s : State) (w : Word) : State :=
  ({ s with pending := [] } : State).loadBytes s.pc.toNat [highByte w, lowByte w]

end Sys2Proof.Machine
end

