-- ==== Sys2Proof/Machine/Step.lean ====
section
/-! DEFINITION. One step of the machine, and the placing of an instruction where the next step fetches. -/

namespace Sys2Proof.Machine

/-- One step: the next system step in the one total order of atomic steps (R60, R100, R112). -/
def step (s : State) : Host.Outcome State Fault Refusal := s.runNext

/-- `s` with the instruction whose bits are `w`, numbered as spec/opcode_table.json numbers them, stored at PC in the
byte order of the hardware, so that the next step fetches and runs it (log entry 16). -/
def State.withFetchWord (s : State) (nbits w : Nat) : State :=
  s.placeWord (BitVec.ofNat 16 (w % 2 ^ nbits))

end Sys2Proof.Machine
end

