-- ==== Sys2Proof/WellFormed.lean ====
section
/-! DEFINITION. What makes a configuration and an instruction well formed. -/

namespace Sys2Proof

/-- A configuration a model may take: PLACEHOLDER_KEYS meets the constraint of R79 and names no implemented key (R77).
R79: "A model that takes PLACEHOLDER_KEYS as an argument must check this constraint." -/
def Config.wellFormed (cfg : Config) : Bool :=
  placeholdersAllowed cfg && placeholdersDisjoint cfg

/-- An instruction is well formed for a configuration when its key is in the table (R77).
Its operands are well formed by their types. -/
def Instr.wellFormed (cfg : Config) (i : Instr) : Bool :=
  tableAt cfg i.key != .absent

end Sys2Proof
end

