-- ==== Sys2Proof/Safety.lean ====
section
/-! DEFINITION. What claims are stated in: views and frames of the state, the invariant, what a finished and an error-free run are, and the spec's tables written out for comparison. -/

namespace Sys2Proof.Machine

/-! ### Views and frames -/

/-- The core state as R37 lists it. -/
structure CoreView where
  v : Vector Byte 16
  ireg : Word
  pc : Word
  stack : Vector Word 16
  sp : Fin 17
  dt : Byte
  st : Byte
  op : Word
  deriving DecidableEq, Repr

/-- The core state of a machine state (R37). -/
def State.coreView (s : State) : CoreView :=
  { v := s.v, ireg := s.ireg, pc := s.pc, stack := s.stack, sp := s.sp, dt := s.dt, st := s.st, op := s.op }

/-- Every general register reads as before. -/
def SameV (s t : State) : Prop := ∀ r : Nibble, t.readV r = s.readV r

/-- Every general register outside the list reads as before. -/
def SameVBut (written : List Nibble) (s t : State) : Prop := ∀ r : Nibble, r ∉ written → t.readV r = s.readV r

/-- I is as before. -/
def SameIndex (s t : State) : Prop := t.ireg = s.ireg

/-- Both timers are as before. -/
def SameTimers (s t : State) : Prop := t.dt = s.dt ∧ t.st = s.st

/-- Every stack slot and SP are as before. -/
def SameStack (s t : State) : Prop := t.stack = s.stack ∧ t.sp = s.sp

/-- Every byte of the byte store reads as before, and the positions that fail are the same. -/
def SameMemory (s t : State) : Prop := ∀ p : Int, t.getByte p = s.getByte p

/-- Every display cell is as before. -/
def SameDisplay (s t : State) : Prop := t.display = s.display

/-- OP, the configuration and what is pending are as before. -/
def SameSetup (s t : State) : Prop := t.op = s.op ∧ t.config = s.config ∧ t.pending = s.pending

/-- The command responded OK and recorded no error (R101). -/
def RespondsOk (s t : State) : Prop := t.response = .ok ∧ t.faultLog = s.faultLog

/-- The command responded ERR with `e`, and `e` was recorded as the latest error (R246, R247). -/
def RespondsErr (e : CoreError) (s t : State) : Prop :=
  t.response = .err e ∧ t.faultLog = s.faultLog ++ [e]

/-- Memory and display untouched, configuration kept (R245 "Memory and display are untouched"). -/
def SameOutside (s t : State) : Prop := SameMemory s t ∧ SameDisplay s t ∧ t.config = s.config

/-- The frame of an instruction that writes only general registers and PC. -/
def FrameRegisters (s t : State) : Prop :=
  SameIndex s t ∧ SameTimers s t ∧ SameStack s t ∧ SameMemory s t ∧ SameDisplay s t ∧ SameSetup s t

/-- The frame of an instruction that writes only PC. -/
def FramePC (s t : State) : Prop := SameV s t ∧ FrameRegisters s t

/-! ### Which state an instruction writes (R23, R28-R31), and where PC goes (R111) -/

/-- The general registers an instruction writes (R23). -/
def writtenRegisters : Instr → List Nibble
  | .ldByte x _ | .addByte x _ | .ldReg x _ | .orReg x _ | .andReg x _ | .xorReg x _ => [x]
  | .addReg x _ | .subReg x _ | .subnReg x _ => [x, 0xF]
  | .cls | .jp _ | .call _ | .seByte _ _ | .sneByte _ _ | .seReg _ _ | .ldI _ | .ldDT _ | .ldST _
  | .ret | .shr _ _ | .shl _ _ | .sneReg _ _ | .jpV0 _ | .rnd _ _ | .drw _ _ _ | .skp _ | .sknp _
  | .ldVxDT _ | .ldVxK _ | .addI _ | .ldF _ | .ldB _ | .storeRegs _ | .loadRegs _ => []

/-- Whether an instruction is one of the sixteen placeholders (R221). -/
def isPlaceholder : Instr → Bool
  | .ret | .shr _ _ | .shl _ _ | .sneReg _ _ | .jpV0 _ | .rnd _ _ | .drw _ _ _ | .skp _ | .sknp _
  | .ldVxDT _ | .ldVxK _ | .addI _ | .ldF _ | .ldB _ | .storeRegs _ | .loadRegs _ => true
  | .cls | .jp _ | .call _ | .seByte _ _ | .sneByte _ _ | .seReg _ _ | .ldByte _ _ | .addByte _ _
  | .ldReg _ _ | .orReg _ _ | .andReg _ _ | .xorReg _ _ | .addReg _ _ | .subReg _ _ | .subnReg _ _
  | .ldI _ | .ldDT _ | .ldST _ => false

/-- The table of R111: where PC stands after the instruction, the error row among its cases. -/
def pcAfter (i : Instr) (s : State) : Word :=
  match i with
  | .cls | .ldByte _ _ | .addByte _ _ | .ldReg _ _ | .orReg _ _ | .andReg _ _ | .xorReg _ _ | .addReg _ _
  | .subReg _ _ | .subnReg _ _ | .ldI _ | .ldDT _ | .ldST _ => s.pc + 2
  | .seByte x nn => if s.readV x = nn then s.pc + 4 else s.pc + 2
  | .sneByte x nn => if s.readV x = nn then s.pc + 2 else s.pc + 4
  | .seReg x y => if s.readV x = s.readV y then s.pc + 4 else s.pc + 2
  | .jp nnn => nnn.setWidth 16
  | .call nnn => if s.sp.val = 16 then s.pc else nnn.setWidth 16
  | .ret | .shr _ _ | .shl _ _ | .sneReg _ _ | .jpV0 _ | .rnd _ _ | .drw _ _ _ | .skp _ | .sknp _
  | .ldVxDT _ | .ldVxK _ | .addI _ | .ldF _ | .ldB _ | .storeRegs _ | .loadRegs _ => s.pc

/-! ### The invariant -/

/-- What every step keeps: the byte store is in its canonical form and within its capacity (R50), the display is in
its canonical form and within its size (R59), and I is below 0x1000 (R28). SP <= 16 (R30) holds by its type. -/
abbrev State.Inv (s : State) : Prop :=
  Memory.wf s.mem = true ∧ withinCapacity s.config.memSize s.mem = true ∧
  displayWf s.config s.display = true ∧ s.ireg.toNat < 0x1000

/-- A coordinate of a cell of the display (R59). -/
abbrev State.InDisplay (s : State) (x y : Int) : Prop :=
  0 ≤ x ∧ x < s.config.displayW ∧ 0 ≤ y ∧ y < s.config.displayH

/-! ### Safe runs -/

/-- No error of the core has been recorded (R247, R290 "no fault is recorded"). -/
abbrev State.ErrorFree (s : State) : Prop := s.faultLog = []

/-- The end of a run (R290): no fault recorded, fetch(PC) succeeds, and the fetched word is a JP to PC itself. -/
def State.Finished (s : State) : Prop :=
  s.ErrorFree ∧ ∃ w : Word, s.fetch s.pcPosition = .ok w ∧ w.extractLsb' 12 4 = 0x1 ∧
    (w.extractLsb' 0 12).toNat = s.pc.toNat

/-- The step is a core transaction: a host command, or the CYCLE of the run loop (R100, R112 (a)). -/
def State.CoreTransaction (s : State) : Prop := s.pending = [] ∨ ∃ c rest, s.pending = .command c :: rest

/-- The step is a CYCLE: the host's pending command, or the run loop's when nothing is pending (R101, R105, R113). -/
def State.CycleNext (s : State) : Prop := s.pending = [] ∨ ∃ rest, s.pending = .command .cycle :: rest

/-! ### The decode maps of R80 and R83, as the spec's tables give them -/

/-- The table of R80, row by row: the key of a word under NARROW_FIRST and the default placeholders, and what the key
is bound to; none where the word is illegal. -/
def normativeMap (w : Word) : Option (Key × TableEntry) :=
  let l : Nibble := w.extractLsb' 12 4
  let low : Byte := w.extractLsb' 0 8
  let trailing : Nibble := w.extractLsb' 0 4
  if l = 0x0 then
    if low = 0xE0 then some (0x00E0, .handler)
    else if low = 0xEE then some (0x00EE, .unimpl)
    else none
  else if l = 0x9 ∨ l = 0xB ∨ l = 0xC ∨ l = 0xD then some (l.setWidth 16 <<< 12, .unimpl)
  else if l = 0xE then
    if low = 0x9E then some (0xE09E, .unimpl)
    else if low = 0xA1 then some (0xE0A1, .unimpl)
    else none
  else if l = 0xF then
    if trailing = 0x7 then some (0xF007, .unimpl)
    else if trailing = 0xA then some (0xF00A, .unimpl)
    else if low = 0x15 then some (0xF015, .handler)
    else if low = 0x18 then some (0xF018, .handler)
    else if low = 0x1E ∨ low = 0x29 ∨ low = 0x33 ∨ low = 0x55 ∨ low = 0x65 then
      some (0xF000 ||| low.setWidth 16, .unimpl)
    else none
  else some (l.setWidth 16 <<< 12, .handler)

/-- R83: the key of a word with leading nibble 8 under SPECIFIC_FIRST, by its trailing nibble. -/
def specificFirstEightKey (trailing : Nibble) : Key :=
  if trailing = 0x1 ∨ trailing = 0x2 ∨ trailing = 0x3 ∨ trailing = 0x4 ∨ trailing = 0x5 ∨ trailing = 0x7
      ∨ trailing = 0x6 ∨ trailing = 0xE then
    0x8000 ||| trailing.setWidth 16
  else 0x8000

/-- The instruction the normative decode makes of an instruction's own word: every 8XY* word is read as 8XY0 (R81),
every other word as itself. -/
def normativeReading : Instr → Instr
  | .orReg x y | .andReg x y | .xorReg x y | .addReg x y | .subReg x y | .subnReg x y | .shr x y | .shl x y =>
    .ldReg x y
  | .cls => .cls
  | .jp nnn => .jp nnn
  | .call nnn => .call nnn
  | .seByte x nn => .seByte x nn
  | .sneByte x nn => .sneByte x nn
  | .seReg x y => .seReg x y
  | .ldByte x nn => .ldByte x nn
  | .addByte x nn => .addByte x nn
  | .ldReg x y => .ldReg x y
  | .ldI nnn => .ldI nnn
  | .ldDT x => .ldDT x
  | .ldST x => .ldST x
  | .ret => .ret
  | .sneReg x y => .sneReg x y
  | .jpV0 nnn => .jpV0 nnn
  | .rnd x nn => .rnd x nn
  | .drw x y n => .drw x y n
  | .skp x => .skp x
  | .sknp x => .sknp x
  | .ldVxDT x => .ldVxDT x
  | .ldVxK x => .ldVxK x
  | .addI x => .addI x
  | .ldF x => .ldF x
  | .ldB x => .ldB x
  | .storeRegs x => .storeRegs x
  | .loadRegs x => .loadRegs x

end Sys2Proof.Machine
end

