-- ==== Sys2Proof/Certificates/Slice0/Obligations.lean ====
section
/-! DEFINITION. The statements for the provers, from the numbered rules of spec/. Each docstring names the rule or section it formalises. -/

open Sys2Proof Sys2Proof.Machine

/-! ### Encoding and decoding -/

/-- Words of 95_test_vectors.md section 2.2, each decoded under the normative configuration, and 0x8014 under both orders. -/
def Obligations.SampleWordsDecode : Prop :=
  decode Config.normative 0x00E0 = .ok .cls ∧
  decode Config.normative 0x1234 = .ok (.jp 0x234) ∧
  decode Config.normative 0x3456 = .ok (.seByte 0x4 0x56) ∧
  decode Config.normative 0x5AB0 = .ok (.seReg 0xA 0xB) ∧
  decode Config.normative 0x8010 = .ok (.ldReg 0x0 0x1) ∧
  decode Config.normative 0x8014 = .ok (.ldReg 0x0 0x1) ∧
  decode Config.specificFirst 0x8014 = .ok (.addReg 0x0 0x1) ∧
  decode Config.normative 0xA2F0 = .ok (.ldI 0x2F0) ∧
  decode Config.normative 0xFB18 = .ok (.ldST 0xB) ∧
  decode Config.normative 0xD123 = .ok (.drw 0x1 0x2 0x3) ∧
  decode Config.normative 0xF117 = .ok (.ldVxDT 0x1) ∧
  decode Config.normative 0xFFFF = .error (.unknownOpcode 0xFFFF)

/-- Under SPECIFIC_FIRST the bytes of every instruction decode to that instruction, all operands kept
(30_encoding.md, sections 1 to 3 and 5). -/
def Obligations.DecodeOfEncodeSpecificFirst : Prop :=
  ∀ (i : Instr) (rest : List Byte),
    decodeBytes Config.specificFirst (encodeBytes i ++ rest) = .ok (i, rest)

/-- Under the normative order the bytes of every instruction decode to the instruction R81 says: itself, but
LD Vx, Vy for every 8XY* word (30_encoding.md section 3). -/
def Obligations.DecodeOfEncodeNormative : Prop :=
  ∀ (i : Instr) (rest : List Byte),
    decodeBytes Config.normative (encodeBytes i ++ rest) = .ok (normativeReading i, rest)

/-- The effective decode map under NARROW_FIRST and the default placeholders, for every word, with what each key is
bound to (30_encoding.md section 3, the table of R80; derived there, over the spec's choice D2 of keys). -/
def Obligations.NormativeDecodeMap : Prop :=
  ∀ w : Word,
    (decodeKey Config.normative w).map (fun k => (k, tableAt Config.normative k)) = normativeMap w

/-- Under SPECIFIC_FIRST the map changes only for leading nibble 8 (30_encoding.md section 3, R83; derived there). -/
def Obligations.SpecificFirstDecodeMap : Prop :=
  ∀ w : Word,
    decodeKey Config.specificFirst w =
      if w.extractLsb' 12 4 = 0x8 then some (specificFirstEightKey (w.extractLsb' 0 4))
      else decodeKey Config.normative w

/-- R79: the check a model makes on PLACEHOLDER_KEYS is the rule's own condition over every word of every implemented
pattern; the default set meets it under both orders, and a set with 0x0000 does not under the normative order
(30_encoding.md section 3; the mask of 0x5000 and 0x8000 is log entry 24, DEDUCED). -/
def Obligations.PlaceholderConstraintIsChecked : Prop :=
  (∀ cfg : Config, placeholdersAllowed cfg = true ↔
    ∀ row ∈ implementedKeys, ∀ w : Word, w &&& row.2 = row.1 →
      ∀ m ∈ masksBefore cfg.decodeOrder row.2, w &&& m ∉ cfg.placeholderKeys) ∧
  placeholdersAllowed Config.normative = true ∧
  placeholdersAllowed Config.specificFirst = true ∧
  (0x00E0#16 &&& 0xF000#16 = 0x0000#16) ∧
  (∀ keys : List Key, 0x0000#16 ∈ keys →
    placeholdersAllowed { Config.normative with placeholderKeys := keys } = false)

/-- Under the normative order, which words reach a handler does not depend on PLACEHOLDER_KEYS within the
constraint of R79 (44_unimplemented.md, R223, derived there; stated for NARROW_FIRST only). -/
def Obligations.HandlersReachedWhateverPlaceholders : Prop :=
  ∀ (cfg cfg' : Config), cfg.decodeOrder = .narrowFirst → cfg'.decodeOrder = .narrowFirst →
    cfg'.wellFormed = true →
    ∀ (w : Word) (k : Key), decodeKey cfg w = some k → tableAt cfg k = .handler →
      decodeKey cfg' w = some k ∧ tableAt cfg' k = .handler

/-! ### Fetch and the byte store -/

/-- R53: fetch is big-endian, whatever the state. -/
def Obligations.FetchIsBigEndian : Prop :=
  ∀ (s : State) (a : Int),
    (∀ w : Word, s.fetch a = .ok w →
      s.getByte a = some (w.extractLsb' 8 8) ∧ s.getByte (a + 1) = some (w.extractLsb' 0 8)) ∧
    (∀ b0 b1 : Byte, s.getByte a = some b0 → s.getByte (a + 1) = some b1 →
      ∃ w : Word, s.fetch a = .ok w ∧ w.toNat = b0.toNat * 256 + b1.toNat)

/-- R54: fetch asks no alignment; it succeeds exactly when both positions are valid, and its only fault is OutOfRange. -/
def Obligations.FetchNeedsNoAlignment : Prop :=
  ∀ (s : State) (a : Int),
    ((∃ w, s.fetch a = .ok w) ↔ 0 ≤ a ∧ a + 1 < s.config.memSize) ∧
    (∀ e, s.fetch a = .error e → ∃ p, e = .outOfRange p)

/-- Which position OutOfRange reports: the lower one when it is bad, else the higher one. The order of the two reads is
the spec's own choice D5 (20_memory.md section 2). -/
def Obligations.FetchReportsFirstBadPosition : Prop :=
  ∀ (s : State) (a : Int),
    (a < 0 ∨ (s.config.memSize : Int) ≤ a → s.fetch a = .error (.outOfRange a)) ∧
    (0 ≤ a → a + 1 = s.config.memSize → s.fetch a = .error (.outOfRange (a + 1)))

/-- The byte store's contract, every write followed by every read, and its failures, for every capacity
(20_memory.md section 1; the default capacity is the spec's choice D10 and is not used). -/
def Obligations.ByteStoreContract : Prop :=
  ∀ (s : State) (p : Int) (b : Byte), s.Inv →
    (0 ≤ p → p < s.config.memSize → ∃ t, s.setByte p b = some t ∧
      ∀ q : Int, t.getByte q = if q = p then some b else s.getByte q) ∧
    (p < 0 ∨ (s.config.memSize : Int) ≤ p → s.setByte p b = none ∧ s.getByte p = none)

/-- R63: a byte the host writes between transactions is seen by the next fetch of that position, and no step but the
host's own setByte changes a byte. -/
def Obligations.HostWritesAreFetchedAndOnlyTheyChangeMemory : Prop :=
  (∀ (s : State) (rest : List SysStep) (p : Int) (b : Byte), s.Inv →
    s.pending = .setByte p b :: rest → 0 ≤ p → p < s.config.memSize →
    ∃ t, step s = .next t ∧ t.pending = rest ∧ t.coreView = s.coreView ∧ SameDisplay s t ∧ t.config = s.config ∧
      t.faultLog = s.faultLog ∧
      (∀ q : Int, t.getByte q = if q = p then some b else s.getByte q) ∧
      (∀ w : Word, t.fetch p = .ok w → w.extractLsb' 8 8 = b) ∧
      (∀ w : Word, t.fetch (p - 1) = .ok w → w.extractLsb' 0 8 = b)) ∧
  (∀ s t : State, step s = .next t → (∀ p b rest, s.pending ≠ .setByte p b :: rest) → SameMemory s t)

/-! ### What the host reads and draws -/

/-- A host read of core state writes nothing; a host getByte, and a setByte out of range, leave the core, the byte store,
the display and the fault log as they were (40_dispatch_cycle.md section 4; 60_exceptions.md section 1, OutOfRange; the
answer to an access out of range is log entry 9, and that a read of core state records nothing is log entry 22). -/
def Obligations.HostReadsLeaveTheCore : Prop :=
  ∀ (s : State) (rest : List SysStep),
    (s.pending = .readState :: rest → step s = .next { s with pending := rest }) ∧
    (∀ p : Int, s.pending = .getByte p :: rest →
      ∃ t, step s = .next t ∧ t.pending = rest ∧ t.coreView = s.coreView ∧ SameOutside s t ∧
        t.faultLog = s.faultLog ∧ (∀ b, s.getByte p = some b → t.response = .byte b) ∧
        (s.getByte p = none → t.response = .storeOutOfRange p)) ∧
    (∀ (p : Int) (b : Byte), s.pending = .setByte p b :: rest → p < 0 ∨ (s.config.memSize : Int) ≤ p →
      ∃ t, step s = .next t ∧ t.pending = rest ∧ t.coreView = s.coreView ∧ SameOutside s t ∧
        t.faultLog = s.faultLog ∧ t.response = .storeOutOfRange p)

/-- A host clear turns every cell off, a host setPixel inside the display sets that cell and no other, a host getPixel
inside it answers the cell; none of them touches core state, byte store or fault log (20_memory.md section 4; that host
display accesses are system steps is log entry 8). -/
def Obligations.HostDrawsOnlyOnTheDisplay : Prop :=
  ∀ (s : State) (rest : List SysStep),
    (s.pending = .clearDisplay :: rest →
      ∃ t, step s = .next t ∧ t.pending = rest ∧ t.coreView = s.coreView ∧ SameMemory s t ∧ t.config = s.config ∧
        t.faultLog = s.faultLog ∧ ∀ x y : Int, t.getPixel x y = false) ∧
    (∀ (x y : Int) (isOn : Bool), s.pending = .setPixel x y isOn :: rest → s.InDisplay x y →
      ∃ t, step s = .next t ∧ t.pending = rest ∧ t.coreView = s.coreView ∧ SameMemory s t ∧ t.config = s.config ∧
        t.faultLog = s.faultLog ∧
        ∀ x' y' : Int, s.InDisplay x' y' →
          t.getPixel x' y' = if x' = x ∧ y' = y then isOn else s.getPixel x' y') ∧
    (∀ x y : Int, s.pending = .getPixel x y :: rest → s.InDisplay x y →
      ∃ t, step s = .next t ∧ t.pending = rest ∧ t.coreView = s.coreView ∧ SameOutside s t ∧
        t.faultLog = s.faultLog ∧ t.response = .pixel (s.getPixel x y))

/-! ### Host commands and the cycle -/

/-- A step runs the decoded instruction: when a CYCLE comes next, pending as a host command or issued by the run loop, and
the word at PC decodes to `i`, the step is `exec` of `i` on the state with that word in OP and the command taken off the
pending list, and nothing else is done around it (40_dispatch_cycle.md section 2). -/
def Obligations.StepRunsDecodedInstruction : Prop :=
  ∀ (s : State) (w : Word) (i : Instr),
    s.CycleNext → s.fetch s.pcPosition = .ok w → decode s.config w = .ok i →
    step s = exec i { s.dropHead with op := w }

/-- R105: CYCLE, as a host command or issued by the run loop, is fetch, store, decode, execute, and a failing step
ends it with the state the rule's comments give. -/
def Obligations.CycleRunsItsFourStepsInOrder : Prop :=
  ∀ s : State, s.CycleNext →
    (∀ e, s.fetch s.pcPosition = .error e →
      ∃ t, step s = .next t ∧ t.pending = s.pending.tail ∧ t.coreView = s.coreView ∧ SameOutside s t ∧
        RespondsErr e s t) ∧
    (∀ w, s.fetch s.pcPosition = .ok w → decodeKey s.config w = none →
      ∃ t, step s = .next t ∧ t.pending = s.pending.tail ∧ t.coreView = { s.coreView with op := w } ∧
        SameOutside s t ∧ RespondsErr (.unknownOpcode w) s t) ∧
    (∀ w k, s.fetch s.pcPosition = .ok w → decodeKey s.config w = some k →
      step s = ({ s.dropHead with op := w } : State).execute k ∧
      (∀ t, step s = .next t → t.faultLog ≠ s.faultLog →
        t.pending = s.pending.tail ∧ t.coreView = { s.coreView with op := w } ∧ SameOutside s t))

/-- Errors are precise: a core transaction that records an error records one, answers it, and leaves the core state as it
was, but that a CYCLE past its fetch leaves OP holding the fetched word (60_exceptions.md section 1, R245, derived
there; for StackOverflow it is the spec's decision D4). -/
def Obligations.ErrorsArePrecise : Prop :=
  ∀ s t : State, s.CoreTransaction → step s = .next t → t.faultLog ≠ s.faultLog →
    (∃ e, RespondsErr e s t) ∧ SameOutside s t ∧ t.pending = s.pending.tail ∧
    (t.coreView = s.coreView ∨
      (s.CycleNext ∧ ∃ w, s.fetch s.pcPosition = .ok w ∧ t.coreView = { s.coreView with op := w }))

/-- After a CYCLE's error a CYCLE that comes next, pending or issued by the run loop, fails the same way
(60_exceptions.md section 1, R247; that the run may go on is the model's log entry 1). -/
def Obligations.RepeatedCycleFailsTheSameWay : Prop :=
  ∀ (s t : State) (e : CoreError), s.CycleNext → step s = .next t → RespondsErr e s t → t.CycleNext →
    ∃ u, step t = .next u ∧ RespondsErr e t u ∧ u.coreView = t.coreView

/-- No step clears or rewrites the fault log, and a step adds at most one error to it
(60_exceptions.md section 1, R247 and R248; the log is the spec's decision D6, and that RESET keeps it is log entry 11). -/
def Obligations.FaultLogIsNeverCleared : Prop :=
  ∀ s t : State, step s = .next t →
    t.faultLog = s.faultLog ∨ ∃ e, t.faultLog = s.faultLog ++ [e] ∧ t.response = .err e

/-- R34: the table is a constant of the configuration, given by PLACEHOLDER_KEYS, and no step changes it: no
instruction, no host command, no step of another agent. -/
def Obligations.TableNeverChanges : Prop :=
  (∀ s t : State, step s = .next t → ∀ k : Key, tableAt t.config k = tableAt s.config k) ∧
  (∀ cfg cfg' : Config, cfg.placeholderKeys = cfg'.placeholderKeys → ∀ k : Key, tableAt cfg k = tableAt cfg' k)

/-- R243: execute with an absent key raises DispatchKeyNotFound, and CYCLE never does. -/
def Obligations.DispatchKeyNotFoundOnlyFromExecute : Prop :=
  (∀ (s : State) (k : Key), tableAt s.config k = .absent →
    ∃ t, s.execute k = .next t ∧ RespondsErr (.dispatchKeyNotFound k) s t ∧ t.coreView = s.coreView) ∧
  (∀ (s t : State) (k : Key), s.CycleNext → step s = .next t → ¬ RespondsErr (.dispatchKeyNotFound k) s t)

/-- R102: FETCH answers the word or OutOfRange and writes no core state, not even OP. -/
def Obligations.FetchCommandWritesNothing : Prop :=
  ∀ (s : State) (a : Int) (rest : List SysStep), s.pending = .command (.fetch a) :: rest →
    ∃ t, step s = .next t ∧ t.pending = rest ∧ t.coreView = s.coreView ∧ SameOutside s t ∧
      (∀ w, s.fetch a = .ok w → t.response = .word w ∧ t.faultLog = s.faultLog) ∧
      (∀ e, s.fetch a = .error e → RespondsErr e s t ∧ ∃ p, e = .outOfRange p)

/-- LATCH stores the word in OP and changes nothing else. LATCH as a command of its own is the spec's decision D7
(40_dispatch_cycle.md section 1). -/
def Obligations.LatchWritesOnlyOP : Prop :=
  ∀ (s : State) (w : Word) (rest : List SysStep), s.pending = .command (.latch w) :: rest →
    ∃ t, step s = .next t ∧ t.pending = rest ∧ t.coreView = { s.coreView with op := w } ∧ SameOutside s t ∧
      RespondsOk s t

/-- R106: DECODE answers the key of OP, or UnknownOpcode(OP), and writes no state. -/
def Obligations.DecodeCommandWritesNothing : Prop :=
  ∀ (s : State) (rest : List SysStep), s.pending = .command .decode :: rest →
    ∃ t, step s = .next t ∧ t.pending = rest ∧ t.coreView = s.coreView ∧ SameOutside s t ∧
      (∀ k, decodeKey s.config s.op = some k → t.response = .key k ∧ t.faultLog = s.faultLog) ∧
      (decodeKey s.config s.op = none → RespondsErr (.unknownOpcode s.op) s t)

/-- R103: EXECUTE looks the key up; absent and UNIMPL keys raise their errors, and a handler runs with its fields read
from OP, whatever key OP itself would decode to. -/
def Obligations.ExecuteLooksUpTheKey : Prop :=
  ∀ (s : State) (k : Key) (rest : List SysStep), s.pending = .command (.execute k) :: rest →
    (tableAt s.config k = .absent → ∃ t, step s = .next t ∧ t.pending = rest ∧ t.coreView = s.coreView ∧
      SameOutside s t ∧ RespondsErr (.dispatchKeyNotFound k) s t) ∧
    (tableAt s.config k = .unimpl → ∃ t, step s = .next t ∧ t.pending = rest ∧ t.coreView = s.coreView ∧
      SameOutside s t ∧ RespondsErr (.unimplemented k s.op) s t) ∧
    (tableAt s.config k = .handler → ∃ i, instrOfKey k s.op = some i ∧ i.key = k ∧ isPlaceholder i = false ∧
      step s = exec i { s with pending := rest })

/-- RESET gives every core state item its value in R36 and leaves byte store, display and configuration
(70_reset_and_hazards.md section 1; OP = 0 is the spec's decision D9, log entry 3). -/
def Obligations.ResetRestoresCoreState : Prop :=
  ∀ (s : State) (rest : List SysStep), s.pending = .command .reset :: rest →
    ∃ t, step s = .next t ∧ t.pending = rest ∧ SameOutside s t ∧ RespondsOk s t ∧
      (∀ r, t.readV r = 0) ∧ t.ireg = 0 ∧ t.pc = 0x200 ∧ (∀ j : Fin 16, t.stack[j] = 0) ∧ t.sp = 0 ∧
      t.dt = 0 ∧ t.st = 0 ∧ t.op = 0

/-- One TimerDriver tick under the default TIMER_TICK takes one from each nonzero timer and touches nothing else. The
step, the stop at zero and the pairing are general knowledge in the spec (43_index_and_timers.md, R207, D11). -/
def Obligations.TickCountsBothTimersDown : Prop :=
  ∀ (s : State) (rest : List SysStep), s.pending = .tick :: rest →
    s.config.timerTick = .saturatingDecrement →
    ∃ t, step s = .next t ∧ t.pending = rest ∧ t.dt.toNat = s.dt.toNat - 1 ∧ t.st.toNat = s.st.toNat - 1 ∧
      t.coreView = { s.coreView with dt := t.dt, st := t.st } ∧ SameOutside s t ∧
      t.faultLog = s.faultLog ∧ t.response = s.response

/-- The machine stops only on a host display access outside the display, and never refuses
(20_memory.md section 4 and 93_implementation_defined.md U2, D24: a model of the collaborator must fault there; that the
host may make such an access at all is log entry 8). -/
def Obligations.OnlyBadDisplayAccessStops : Prop :=
  (∀ (s : State) (r : Fault), step s = .fault r ↔
    ∃ x y : Int, r = .displayOutOfRange x y ∧
      ¬ s.InDisplay x y ∧
      ∃ rest, (∃ isOn, s.pending = .setPixel x y isOn :: rest) ∨ s.pending = .getPixel x y :: rest) ∧
  (∀ (s : State) (r : Refusal), step s ≠ .refused r)

/-! ### Whole-machine rules -/

/-- Every step keeps the invariant: the byte store and the display stay in their canonical forms and within their sizes,
and I stays below 0x1000 (10_state.md R28, 20_memory.md R50 and R59). -/
def Obligations.StepKeepsInv : Prop :=
  ∀ s t : State, s.Inv → step s = .next t → t.Inv

/-- The invariant holds at reset (10_state.md section 7; the empty byte store and the dark display are the model's choices,
log entries 4 and 5). -/
def Obligations.InvAtReset : Prop := State.reset.Inv

/-- In a run of CYCLEs PC stays at most MEM_SIZE + 2, so its advance never wraps; for the capacities R27 speaks of
(10_state.md section 3; the wrap itself is the spec's choice D8). -/
def Obligations.CycleKeepsPCBelowTop : Prop :=
  ∀ s t : State, s.CycleNext → 4093 ≤ s.config.memSize → s.config.memSize ≤ 4096 →
    s.pc.toNat ≤ s.config.memSize + 2 → step s = .next t →
    t.pc.toNat ≤ t.config.memSize + 2 ∧ t.pending = s.pending.tail ∧ t.config.memSize = s.config.memSize

/-- What each of the 34 instructions leaves alone, on every state it answers (10_state.md R23, R28 to R31): registers
outside its destinations, I but for ANNN, DT but for FX15, ST but for FX18, the stack but for 2NNN, the display but
for 00E0, and always every byte of memory, OP, the configuration and what is pending. -/
def Obligations.EveryInstructionKeepsItsFrame : Prop :=
  ∀ (i : Instr) (s : State), ∃ t, exec i s = .next t ∧
    SameVBut (writtenRegisters i) s t ∧ SameMemory s t ∧ SameSetup s t ∧
    (t.ireg ≠ s.ireg → ∃ nnn, i = .ldI nnn) ∧
    (t.dt ≠ s.dt → ∃ x, i = .ldDT x) ∧
    (t.st ≠ s.st → ∃ x, i = .ldST x) ∧
    (t.stack ≠ s.stack ∨ t.sp ≠ s.sp → ∃ nnn, i = .call nnn) ∧
    (t.display ≠ s.display → i = .cls) ∧
    (t.faultLog ≠ s.faultLog → isPlaceholder i = true ∨ ∃ nnn, i = .call nnn ∧ s.sp.val = 16)

/-- Where PC stands after each of the 34 instructions (40_dispatch_cycle.md section 3, the table of R111, derived
there; its error row for 2NNN rests on the spec's decision D4). -/
def Obligations.EveryInstructionSequencesPC : Prop :=
  ∀ (i : Instr) (s t : State), exec i s = .next t → t.pc = pcAfter i s

/-- A finished state is a fixed point of CYCLE, as a host command or issued by the run loop: OP becomes the JP's word, PC and
everything else stay, the state stays finished, and a further CYCLE takes only itself off the pending list; for every
configuration that meets R79 (70_reset_and_hazards.md section 5, R290; the definition of
finished is the spec's decision D17). -/
def Obligations.FinishedIsFixedPoint : Prop :=
  ∀ s : State, s.CycleNext → s.config.wellFormed = true → s.Finished →
    ∃ (t : State) (w : Word), s.fetch s.pcPosition = .ok w ∧ step s = .next t ∧
      t.pending = s.pending.tail ∧ t.Finished ∧ t.coreView = { s.coreView with op := w } ∧ SameOutside s t ∧
      (t.CycleNext → step t = .next t.dropHead)

/-- Under NARROW_FIRST the CYCLE of any word with leading nibble 8 runs LD Vx, Vy, whatever the trailing nibble
(30_encoding.md section 3 R81, 42_register_alu.md R184; derived there). -/
def Obligations.NormativeCycleCopiesForEveryEightWord : Prop :=
  ∀ (s : State) (w : Word), s.CycleNext → s.config.decodeOrder = .narrowFirst →
    s.fetch s.pcPosition = .ok w → w.extractLsb' 12 4 = 0x8 →
    ∃ t, step s = .next t ∧ t.pending = s.pending.tail ∧ t.readV (w.extractLsb' 8 4) = s.readV (w.extractLsb' 4 4) ∧
      SameVBut [w.extractLsb' 8 4] s t ∧ t.pc = s.pc + 2 ∧ t.op = w ∧ SameIndex s t ∧ SameTimers s t ∧
      SameStack s t ∧ SameOutside s t ∧ RespondsOk s t

/-! ### Screen clear and control flow -/

/-- R131: 00E0 turns every display cell off and advances PC by 2. -/
def Obligations.ClsClearsTheDisplay : Prop :=
  ∀ s : State, s.execute 0x00E0 = exec .cls s ∧
    ∃ t, exec .cls s = .next t ∧ t.pc = s.pc + 2 ∧ (∀ x y : Int, t.getPixel x y = false) ∧ t.display = [] ∧
      SameV s t ∧ SameIndex s t ∧ SameTimers s t ∧ SameStack s t ∧ SameMemory s t ∧ SameSetup s t ∧ RespondsOk s t

/-- R133: 1NNN sets PC to NNN = OP[11:0], with no PC + 2. -/
def Obligations.JpSetsPC : Prop :=
  ∀ (s : State) (nnn : Addr),
    (nnn = s.op.extractLsb' 0 12 → s.execute 0x1000 = exec (.jp nnn) s) ∧
    ∃ t, exec (.jp nnn) s = .next t ∧ t.pc = nnn.setWidth 16 ∧ FramePC s t ∧ RespondsOk s t

/-- 2NNN with a free slot pushes the call's own address, increments SP and sets PC to NNN
(41_screen_and_control_flow.md, 2NNN, the half of R136 that is not the spec's decision D4). -/
def Obligations.CallPushesItsOwnAddress : Prop :=
  ∀ (s : State) (nnn : Addr), s.sp.val < 16 →
    (nnn = s.op.extractLsb' 0 12 → s.execute 0x2000 = exec (.call nnn) s) ∧
    ∃ t, exec (.call nnn) s = .next t ∧ t.pc = nnn.setWidth 16 ∧ t.sp.val = s.sp.val + 1 ∧
      (∀ j : Fin 16, t.stack[j] = if j.val = s.sp.val then s.pc else s.stack[j]) ∧
      SameV s t ∧ SameIndex s t ∧ SameTimers s t ∧ SameMemory s t ∧ SameDisplay s t ∧ SameSetup s t ∧ RespondsOk s t

/-- 2NNN with all sixteen slots in use raises StackOverflow(PC, NNN) before any write
(41_screen_and_control_flow.md, 2NNN; the spec's decision D4, log entry 13). -/
def Obligations.CallOverflowsPrecisely : Prop :=
  ∀ (s : State) (nnn : Addr), s.sp.val = 16 →
    ∃ t, exec (.call nnn) s = .next t ∧ t.coreView = s.coreView ∧ SameOutside s t ∧ t.pending = s.pending ∧
      RespondsErr (.stackOverflow s.pc nnn) s t

/-- R140: 3XNN advances PC by 4 iff V[x] = NN, else by 2. -/
def Obligations.SeByteSkipsOnEqual : Prop :=
  ∀ (s : State) (x : Nibble) (nn : Byte),
    (x = s.op.extractLsb' 8 4 → nn = s.op.extractLsb' 0 8 → s.execute 0x3000 = exec (.seByte x nn) s) ∧
    ∃ t, exec (.seByte x nn) s = .next t ∧ (s.readV x = nn → t.pc = s.pc + 4) ∧
      (s.readV x ≠ nn → t.pc = s.pc + 2) ∧ FramePC s t ∧ RespondsOk s t

/-- R142: 4XNN advances PC by 4 iff V[x] is not NN, else by 2. -/
def Obligations.SneByteSkipsOnUnequal : Prop :=
  ∀ (s : State) (x : Nibble) (nn : Byte),
    (x = s.op.extractLsb' 8 4 → nn = s.op.extractLsb' 0 8 → s.execute 0x4000 = exec (.sneByte x nn) s) ∧
    ∃ t, exec (.sneByte x nn) s = .next t ∧ (s.readV x ≠ nn → t.pc = s.pc + 4) ∧
      (s.readV x = nn → t.pc = s.pc + 2) ∧ FramePC s t ∧ RespondsOk s t

/-- R144: 5XY0 advances PC by 4 iff V[x] = V[y], else by 2. -/
def Obligations.SeRegSkipsOnEqual : Prop :=
  ∀ (s : State) (x y : Nibble),
    (x = s.op.extractLsb' 8 4 → y = s.op.extractLsb' 4 4 → s.execute 0x5000 = exec (.seReg x y) s) ∧
    ∃ t, exec (.seReg x y) s = .next t ∧ (s.readV x = s.readV y → t.pc = s.pc + 4) ∧
      (s.readV x ≠ s.readV y → t.pc = s.pc + 2) ∧ FramePC s t ∧ RespondsOk s t

/-- Exactly one of 3XNN and 4XNN skips, on every state and operands (41_screen_and_control_flow.md, R143, derived there). -/
def Obligations.ByteSkipsAreComplementary : Prop :=
  ∀ (s t u : State) (x : Nibble) (nn : Byte), exec (.seByte x nn) s = .next t → exec (.sneByte x nn) s = .next u →
    (t.pc = s.pc + 4 ∧ u.pc = s.pc + 2) ∨ (t.pc = s.pc + 2 ∧ u.pc = s.pc + 4)

/-! ### Register load and ALU -/

/-- R160: 6XNN stores NN in V[x]; reached by CYCLE from every word with leading nibble 6, for every configuration
that meets R79. -/
def Obligations.LdByteLoadsImmediate : Prop :=
  (∀ (cfg : Config) (w : Word), cfg.wellFormed = true → w.extractLsb' 12 4 = 0x6 →
    decodeKey cfg w = some 0x6000) ∧
  ∀ (s : State) (x : Nibble) (nn : Byte),
    (x = s.op.extractLsb' 8 4 → nn = s.op.extractLsb' 0 8 → s.execute 0x6000 = exec (.ldByte x nn) s) ∧
    ∃ t, exec (.ldByte x nn) s = .next t ∧ t.readV x = nn ∧ SameVBut [x] s t ∧ t.pc = s.pc + 2 ∧
      FrameRegisters s t ∧ RespondsOk s t

/-- R162: 7XNN adds NN to V[x] modulo 256 and writes no carry; reached by CYCLE from every word with
leading nibble 7, for every configuration that meets R79. -/
def Obligations.AddByteWrapsWithoutCarry : Prop :=
  (∀ (cfg : Config) (w : Word), cfg.wellFormed = true → w.extractLsb' 12 4 = 0x7 →
    decodeKey cfg w = some 0x7000) ∧
  ∀ (s : State) (x : Nibble) (nn : Byte),
    (x = s.op.extractLsb' 8 4 → nn = s.op.extractLsb' 0 8 → s.execute 0x7000 = exec (.addByte x nn) s) ∧
    ∃ t, exec (.addByte x nn) s = .next t ∧ (t.readV x).toNat = ((s.readV x).toNat + nn.toNat) % 256 ∧
      SameVBut [x] s t ∧ t.pc = s.pc + 2 ∧ FrameRegisters s t ∧ RespondsOk s t

/-- R165: 8XY0 copies V[y] into V[x]; under NARROW_FIRST reached by CYCLE from every word with leading nibble 8. -/
def Obligations.LdRegCopies : Prop :=
  (∀ (cfg : Config) (w : Word), cfg.decodeOrder = .narrowFirst → w.extractLsb' 12 4 = 0x8 →
    decodeKey cfg w = some 0x8000) ∧
  ∀ (s : State) (x y : Nibble),
    (x = s.op.extractLsb' 8 4 → y = s.op.extractLsb' 4 4 → s.execute 0x8000 = exec (.ldReg x y) s) ∧
    ∃ t, exec (.ldReg x y) s = .next t ∧ t.readV x = s.readV y ∧ SameVBut [x] s t ∧ t.pc = s.pc + 2 ∧
      FrameRegisters s t ∧ RespondsOk s t

/-- R167: 8XY1 stores V[x] OR V[y] in V[x]; VF is not reset. -/
def Obligations.OrRegStoresOr : Prop :=
  ∀ (s : State) (x y : Nibble),
    (x = s.op.extractLsb' 8 4 → y = s.op.extractLsb' 4 4 → s.execute 0x8001 = exec (.orReg x y) s) ∧
    ∃ t, exec (.orReg x y) s = .next t ∧ t.readV x = s.readV x ||| s.readV y ∧ SameVBut [x] s t ∧
      t.pc = s.pc + 2 ∧ FrameRegisters s t ∧ RespondsOk s t

/-- R169: 8XY2 stores V[x] AND V[y] in V[x]. -/
def Obligations.AndRegStoresAnd : Prop :=
  ∀ (s : State) (x y : Nibble),
    (x = s.op.extractLsb' 8 4 → y = s.op.extractLsb' 4 4 → s.execute 0x8002 = exec (.andReg x y) s) ∧
    ∃ t, exec (.andReg x y) s = .next t ∧ t.readV x = s.readV x &&& s.readV y ∧ SameVBut [x] s t ∧
      t.pc = s.pc + 2 ∧ FrameRegisters s t ∧ RespondsOk s t

/-- R171: 8XY3 stores V[x] XOR V[y] in V[x]. -/
def Obligations.XorRegStoresXor : Prop :=
  ∀ (s : State) (x y : Nibble),
    (x = s.op.extractLsb' 8 4 → y = s.op.extractLsb' 4 4 → s.execute 0x8003 = exec (.xorReg x y) s) ∧
    ∃ t, exec (.xorReg x y) s = .next t ∧ t.readV x = s.readV x ^^^ s.readV y ∧ SameVBut [x] s t ∧
      t.pc = s.pc + 2 ∧ FrameRegisters s t ∧ RespondsOk s t

/-- 8XY4: VF ends as the carry, V[x] (when it is not VF) as the sum modulo 256
(42_register_alu.md, "Add and subtract with flag"; that the flag is the last write is the spec's decision D18). -/
def Obligations.AddRegSumsAndSetsCarry : Prop :=
  ∀ (s : State) (x y : Nibble),
    (x = s.op.extractLsb' 8 4 → y = s.op.extractLsb' 4 4 → s.execute 0x8004 = exec (.addReg x y) s) ∧
    ∃ t, exec (.addReg x y) s = .next t ∧
      t.readV 0xF = (if (s.readV x).toNat + (s.readV y).toNat > 255 then 1 else 0) ∧
      (x ≠ 0xF → (t.readV x).toNat = ((s.readV x).toNat + (s.readV y).toNat) % 256) ∧
      SameVBut [x, 0xF] s t ∧ t.pc = s.pc + 2 ∧ FrameRegisters s t ∧ RespondsOk s t

/-- 8XY5: VF ends as the flag SUB_FLAG_RULE gives, V[x] (when it is not VF) as V[x] - V[y] modulo 256
(42_register_alu.md, "Add and subtract with flag"; the parameter is the spec's decision D3, the write order D18). -/
def Obligations.SubRegSubtractsAndSetsFlag : Prop :=
  ∀ (s : State) (x y : Nibble),
    (x = s.op.extractLsb' 8 4 → y = s.op.extractLsb' 4 4 → s.execute 0x8005 = exec (.subReg x y) s) ∧
    ∃ t, exec (.subReg x y) s = .next t ∧
      (s.config.subFlagRule = .positiveDiff →
        t.readV 0xF = if (s.readV y).toNat < (s.readV x).toNat then 1 else 0) ∧
      (s.config.subFlagRule = .noBorrow →
        t.readV 0xF = if (s.readV y).toNat ≤ (s.readV x).toNat then 1 else 0) ∧
      (x ≠ 0xF → ((t.readV x).toNat : Int) = (((s.readV x).toNat : Int) - ((s.readV y).toNat : Int)) % 256) ∧
      SameVBut [x, 0xF] s t ∧ t.pc = s.pc + 2 ∧ FrameRegisters s t ∧ RespondsOk s t

/-- 8XY7: as 8XY5 with the difference V[y] - V[x]
(42_register_alu.md, "Add and subtract with flag"; decisions D3 and D18). -/
def Obligations.SubnRegSubtractsReversed : Prop :=
  ∀ (s : State) (x y : Nibble),
    (x = s.op.extractLsb' 8 4 → y = s.op.extractLsb' 4 4 → s.execute 0x8007 = exec (.subnReg x y) s) ∧
    ∃ t, exec (.subnReg x y) s = .next t ∧
      (s.config.subFlagRule = .positiveDiff →
        t.readV 0xF = if (s.readV x).toNat < (s.readV y).toNat then 1 else 0) ∧
      (s.config.subFlagRule = .noBorrow →
        t.readV 0xF = if (s.readV x).toNat ≤ (s.readV y).toNat then 1 else 0) ∧
      (x ≠ 0xF → ((t.readV x).toNat : Int) = (((s.readV y).toNat : Int) - ((s.readV x).toNat : Int)) % 256) ∧
      SameVBut [x, 0xF] s t ∧ t.pc = s.pc + 2 ∧ FrameRegisters s t ∧ RespondsOk s t

/-- Arithmetic (42_register_alu.md, "Arithmetic laws", R182; SUB_FLAG_RULE is the spec's decision D3) is
unsigned 8-bit modulo 256; only 8XY4 reports a carry; the stored difference is the
two's-complement 8-bit difference, with the flag by SUB_FLAG_RULE; nothing traps. The forms with x = 0xF, where the order
of two writes to VF decides (D18), are in the three statements before this one. -/
def Obligations.ArithmeticIsModulo256 : Prop :=
  ∀ (s : State) (x y : Nibble) (nn : Byte),
    (∃ t, exec (.addByte x nn) s = .next t ∧ t.readV x = s.readV x + nn ∧
      (x ≠ 0xF → t.readV 0xF = s.readV 0xF) ∧ RespondsOk s t) ∧
    (x ≠ 0xF →
      (∃ t, exec (.addReg x y) s = .next t ∧ t.readV x = s.readV x + s.readV y ∧
        (t.readV 0xF = 1 ↔ (s.readV x).toNat + (s.readV y).toNat > 255) ∧ RespondsOk s t) ∧
      (∃ t, exec (.subReg x y) s = .next t ∧ t.readV x = s.readV x - s.readV y ∧
        (s.config.subFlagRule = .positiveDiff → (t.readV 0xF = 1 ↔ s.readV y < s.readV x)) ∧
        (s.config.subFlagRule = .noBorrow → (t.readV 0xF = 1 ↔ s.readV y ≤ s.readV x)) ∧ RespondsOk s t) ∧
      (∃ t, exec (.subnReg x y) s = .next t ∧ t.readV x = s.readV y - s.readV x ∧
        (s.config.subFlagRule = .positiveDiff → (t.readV 0xF = 1 ↔ s.readV x < s.readV y)) ∧
        (s.config.subFlagRule = .noBorrow → (t.readV 0xF = 1 ↔ s.readV x ≤ s.readV y)) ∧ RespondsOk s t))

/-- The two values of SUB_FLAG_RULE give 8XY5 and 8XY7 different results only when the operands are equal, and then
only in VF of the whole core state (42_register_alu.md, R177 and R180, derived there; the alternative value is the spec's decision D3). -/
def Obligations.SubFlagRulesDifferOnlyOnEqual : Prop :=
  ∀ (s p n : State) (x y : Nibble) (i : Instr), i = .subReg x y ∨ i = .subnReg x y →
    exec i { s with config := { s.config with subFlagRule := .positiveDiff } } = .next p →
    exec i { s with config := { s.config with subFlagRule := .noBorrow } } = .next n →
    (s.readV x ≠ s.readV y → p.coreView = n.coreView) ∧
    (s.readV x = s.readV y → p.readV 0xF = 0 ∧ n.readV 0xF = 1 ∧ p.coreView = { n.coreView with v := p.v } ∧
      ∀ r : Nibble, r ≠ 0xF → p.readV r = n.readV r)

/-! ### Index register and timers -/

/-- R200: ANNN loads I with NNN, within 12 bits. -/
def Obligations.LdILoadsIndex : Prop :=
  ∀ (s : State) (nnn : Addr),
    (nnn = s.op.extractLsb' 0 12 → s.execute 0xA000 = exec (.ldI nnn) s) ∧
    ∃ t, exec (.ldI nnn) s = .next t ∧ t.ireg.toNat = nnn.toNat ∧ t.pc = s.pc + 2 ∧
      SameV s t ∧ SameTimers s t ∧ SameStack s t ∧ SameMemory s t ∧ SameDisplay s t ∧ SameSetup s t ∧ RespondsOk s t

/-- R202: FX15 sets DT to V[x]. -/
def Obligations.LdDTSetsDelayTimer : Prop :=
  ∀ (s : State) (x : Nibble),
    (x = s.op.extractLsb' 8 4 → s.execute 0xF015 = exec (.ldDT x) s) ∧
    ∃ t, exec (.ldDT x) s = .next t ∧ t.dt = s.readV x ∧ t.st = s.st ∧ t.pc = s.pc + 2 ∧
      SameV s t ∧ SameIndex s t ∧ SameStack s t ∧ SameMemory s t ∧ SameDisplay s t ∧ SameSetup s t ∧ RespondsOk s t

/-- R204: FX18 sets ST to V[x]. -/
def Obligations.LdSTSetsSoundTimer : Prop :=
  ∀ (s : State) (x : Nibble),
    (x = s.op.extractLsb' 8 4 → s.execute 0xF018 = exec (.ldST x) s) ∧
    ∃ t, exec (.ldST x) s = .next t ∧ t.st = s.readV x ∧ t.dt = s.dt ∧ t.pc = s.pc + 2 ∧
      SameV s t ∧ SameIndex s t ∧ SameStack s t ∧ SameMemory s t ∧ SameDisplay s t ∧ SameSetup s t ∧ RespondsOk s t

/-! ### Placeholders -/

/-- R220: executing a key bound to UNIMPL, whichever keys the configuration binds so, raises Unimplemented(k, OP) before
any state change; in CYCLE only OP has changed. -/
def Obligations.UnimplKeysRaiseUnimplemented : Prop :=
  (∀ (s : State) (k : Key), tableAt s.config k = .unimpl →
    ∃ t, s.execute k = .next t ∧ t.coreView = s.coreView ∧ SameOutside s t ∧ t.pending = s.pending ∧
      RespondsErr (.unimplemented k s.op) s t) ∧
  (∀ (s : State) (w : Word) (k : Key), s.CycleNext → s.fetch s.pcPosition = .ok w →
    decodeKey s.config w = some k → tableAt s.config k = .unimpl →
    ∃ t, step s = .next t ∧ t.pending = s.pending.tail ∧ t.coreView = { s.coreView with op := w } ∧
      SameOutside s t ∧ RespondsErr (.unimplemented k w) s t)

/-- Each of the sixteen placeholder instructions answers with Unimplemented(its key, OP) and changes nothing else; the
effect of a placeholder is that error and no other (44_unimplemented.md, R220, for the default keys of the spec's
decision D2). -/
def Obligations.PlaceholderInstructionsRaise : Prop :=
  ∀ (i : Instr) (s : State), isPlaceholder i = true →
    ∃ t, exec i s = .next t ∧ t.coreView = s.coreView ∧ SameOutside s t ∧ t.pending = s.pending ∧
      RespondsErr (.unimplemented i.key s.op) s t
end

