-- ==== Sys2Proof/Laws/Decode.lean ====
section
/-! SUPPORT. Bit-field lemmas of the encoding, and what the table and decode can answer (30_encoding.md). -/

namespace Sys2Proof

/-! ### Fields of the formats (R71, R73) -/

@[simp] theorem fieldX_formatFR (a b c d : Nibble) : fieldX (formatFR a b c d) = b := by
  apply BitVec.eq_of_getLsbD_eq
  intro i hi
  unfold formatFR fieldX
  interval_cases i <;> simp

@[simp] theorem fieldY_formatFR (a b c d : Nibble) : fieldY (formatFR a b c d) = c := by
  apply BitVec.eq_of_getLsbD_eq
  intro i hi
  unfold formatFR fieldY
  interval_cases i <;> simp

@[simp] theorem fieldN_formatFR (a b c d : Nibble) : fieldN (formatFR a b c d) = d := by
  apply BitVec.eq_of_getLsbD_eq
  intro i hi
  unfold formatFR fieldN
  interval_cases i <;> simp

@[simp] theorem leadingNibble_formatFR (a b c d : Nibble) : leadingNibble (formatFR a b c d) = a := by
  apply BitVec.eq_of_getLsbD_eq
  intro i hi
  unfold formatFR leadingNibble
  interval_cases i <;> simp

@[simp] theorem fieldX_formatFB (a b : Nibble) (n : Byte) : fieldX (formatFB a b n) = b := by
  apply BitVec.eq_of_getLsbD_eq
  intro i hi
  unfold formatFB fieldX
  interval_cases i <;> simp

@[simp] theorem fieldNN_formatFB (a b : Nibble) (n : Byte) : fieldNN (formatFB a b n) = n := by
  apply BitVec.eq_of_getLsbD_eq
  intro i hi
  unfold formatFB fieldNN
  interval_cases i <;> simp

@[simp] theorem leadingNibble_formatFB (a b : Nibble) (n : Byte) : leadingNibble (formatFB a b n) = a := by
  apply BitVec.eq_of_getLsbD_eq
  intro i hi
  unfold formatFB leadingNibble
  interval_cases i <;> simp

@[simp] theorem fieldX_formatFX (a b : Nibble) (n : Byte) : fieldX (formatFX a b n) = b := by
  apply BitVec.eq_of_getLsbD_eq
  intro i hi
  unfold formatFX fieldX
  interval_cases i <;> simp

@[simp] theorem fieldNN_formatFX (a b : Nibble) (n : Byte) : fieldNN (formatFX a b n) = n := by
  apply BitVec.eq_of_getLsbD_eq
  intro i hi
  unfold formatFX fieldNN
  interval_cases i <;> simp

@[simp] theorem leadingNibble_formatFX (a b : Nibble) (n : Byte) : leadingNibble (formatFX a b n) = a := by
  apply BitVec.eq_of_getLsbD_eq
  intro i hi
  unfold formatFX leadingNibble
  interval_cases i <;> simp

@[simp] theorem fieldNNN_formatFA (a : Nibble) (n : Addr) : fieldNNN (formatFA a n) = n := by
  apply BitVec.eq_of_getLsbD_eq
  intro i hi
  unfold formatFA fieldNNN
  interval_cases i <;> simp

@[simp] theorem leadingNibble_formatFA (a : Nibble) (n : Addr) : leadingNibble (formatFA a n) = a := by
  apply BitVec.eq_of_getLsbD_eq
  intro i hi
  unfold formatFA leadingNibble
  interval_cases i <;> simp

/-! ### A word by its nibbles, and its images under the three masks (R75) -/

/-- A word is its four nibbles. -/
theorem word_eq_formatFR (w : Word) : w = formatFR (leadingNibble w) (fieldX w) (fieldY w) (fieldN w) := by
  apply BitVec.eq_of_getLsbD_eq
  intro i hi
  unfold formatFR leadingNibble fieldX fieldY fieldN
  interval_cases i <;> simp

/-- M4 keeps the leading nibble. -/
theorem and_maskM4 (w : Word) : w &&& maskM4 = formatFR (leadingNibble w) 0 0 0 := by
  apply BitVec.eq_of_getLsbD_eq
  intro i hi
  unfold formatFR leadingNibble maskM4
  interval_cases i <;> simp

/-- M8 keeps the leading and trailing nibbles. -/
theorem and_maskM8 (w : Word) : w &&& maskM8 = formatFR (leadingNibble w) 0 0 (fieldN w) := by
  apply BitVec.eq_of_getLsbD_eq
  intro i hi
  unfold formatFR leadingNibble fieldN maskM8
  interval_cases i <;> simp

/-- M12 keeps the leading nibble and the trailing byte. -/
theorem and_maskM12 (w : Word) : w &&& maskM12 = formatFX (leadingNibble w) 0 (fieldNN w) := by
  apply BitVec.eq_of_getLsbD_eq
  intro i hi
  unfold formatFX leadingNibble fieldNN maskM12
  interval_cases i <;> simp

/-- The trailing byte of a word by its nibbles. -/
theorem fieldNN_formatFR (a b c d : Nibble) : fieldNN (formatFR a b c d) = (c.setWidth 8 <<< 4) ||| d.setWidth 8 := by
  apply BitVec.eq_of_getLsbD_eq
  intro i hi
  unfold formatFR fieldNN
  interval_cases i <;> simp

/-- The trailing nibble of format FX. -/
theorem fieldN_formatFX (a b : Nibble) (n : Byte) : fieldN (formatFX a b n) = n.extractLsb' 0 4 := by
  apply BitVec.eq_of_getLsbD_eq
  intro i hi
  unfold formatFX fieldN
  interval_cases i <;> simp

/-- The trailing nibble of format FB. -/
theorem fieldN_formatFB (a b : Nibble) (n : Byte) : fieldN (formatFB a b n) = n.extractLsb' 0 4 := by
  apply BitVec.eq_of_getLsbD_eq
  intro i hi
  unfold formatFB fieldN
  interval_cases i <;> simp

/-- The trailing nibble of format FA. -/
theorem fieldN_formatFA (a : Nibble) (n : Addr) : fieldN (formatFA a n) = n.extractLsb' 0 4 := by
  apply BitVec.eq_of_getLsbD_eq
  intro i hi
  unfold formatFA fieldN
  interval_cases i <;> simp

/-- The trailing byte of format FA. -/
theorem fieldNN_formatFA (a : Nibble) (n : Addr) : fieldNN (formatFA a n) = n.extractLsb' 0 8 := by
  apply BitVec.eq_of_getLsbD_eq
  intro i hi
  unfold formatFA fieldNN
  interval_cases i <;> simp

/-- The trailing nibble is the low half of the trailing byte. -/
theorem fieldN_eq_fieldNN (w : Word) : fieldN w = (fieldNN w).extractLsb' 0 4 := by
  apply BitVec.eq_of_getLsbD_eq
  intro i hi
  unfold fieldN fieldNN
  interval_cases i <;> simp

/-! ### Byte order (R53) -/

/-- Storing a word and fetching it again. -/
@[simp] theorem wordOfBytes_high_low (w : Word) : wordOfBytes (highByte w) (lowByte w) = w := by
  apply BitVec.eq_of_getLsbD_eq
  intro i hi
  unfold wordOfBytes highByte lowByte
  interval_cases i <;> simp

@[simp] theorem highByte_wordOfBytes (b0 b1 : Byte) : highByte (wordOfBytes b0 b1) = b0 := by
  apply BitVec.eq_of_getLsbD_eq
  intro i hi
  unfold wordOfBytes highByte
  interval_cases i <;> simp

@[simp] theorem lowByte_wordOfBytes (b0 b1 : Byte) : lowByte (wordOfBytes b0 b1) = b1 := by
  apply BitVec.eq_of_getLsbD_eq
  intro i hi
  unfold wordOfBytes lowByte
  interval_cases i <;> simp

/-- The decoder reads the bytes of a word as that word (R53). -/
theorem decodeBytes_encodeBytes (cfg : Config) (i : Instr) (rest : List Byte) :
    decodeBytes cfg (encodeBytes i ++ rest) = (decode cfg (encode i)).map (fun j => (j, rest)) := by
  simp [encodeBytes, decodeBytes]

/-! ### The table and decode (R77, R78) -/

/-- Which keys are bound to handlers does not depend on the configuration (R76, R77). -/
theorem tableAt_handler_congr (cfg cfg' : Config) (k : Key) :
    tableAt cfg k = .handler ↔ tableAt cfg' k = .handler := by
  unfold tableAt
  by_cases h : implementedKeys.any (fun row => row.1 == k) = true
  · simp [h]
  · simp only [h, Bool.false_eq_true, if_false]
    constructor <;> intro h' <;> split at h' <;> cases h'

theorem tableAt_handler_iff (cfg : Config) (k : Key) :
    tableAt cfg k = .handler ↔ implementedKeys.any (fun row => row.1 == k) = true := by
  unfold tableAt
  by_cases h : implementedKeys.any (fun row => row.1 == k) = true
  · simp [h]
  · simp only [h, Bool.false_eq_true, if_false, iff_false]
    split <;> simp

theorem tableAt_unimpl_iff (cfg : Config) (k : Key) :
    tableAt cfg k = .unimpl ↔
      ¬ implementedKeys.any (fun row => row.1 == k) = true ∧ k ∈ cfg.placeholderKeys := by
  unfold tableAt
  by_cases h : implementedKeys.any (fun row => row.1 == k) = true
  · simp [h]
  · by_cases hp : k ∈ cfg.placeholderKeys <;> simp [h, hp]

/-- A handler key is one of the eighteen of R76. -/
theorem handler_key_cases {cfg : Config} {k : Key} (h : tableAt cfg k = .handler) :
    k ∈ [0x00E0#16, 0x1000#16, 0x2000#16, 0x3000#16, 0x4000#16, 0x5000#16, 0x6000#16, 0x7000#16, 0x8000#16,
      0x8001#16, 0x8002#16, 0x8003#16, 0x8004#16, 0x8005#16, 0x8007#16, 0xA000#16, 0xF015#16, 0xF018#16] := by
  rw [tableAt_handler_iff, List.any_eq_true] at h
  obtain ⟨row, hrow, heq⟩ := h
  rw [beq_iff_eq] at heq
  subst heq
  simp only [implementedKeys, List.mem_cons, List.not_mem_nil, or_false] at hrow
  rcases hrow with h | h | h | h | h | h | h | h | h | h | h | h | h | h | h | h | h | h <;> subst h <;> simp

/-- Decode under the normative order, step by step (R78). -/
theorem decodeKey_narrowFirst {cfg : Config} (h : cfg.decodeOrder = .narrowFirst) (w : Word) :
    decodeKey cfg w =
      if tableAt cfg (w &&& maskM4) ≠ .absent then some (w &&& maskM4)
      else if tableAt cfg (w &&& maskM8) ≠ .absent then some (w &&& maskM8)
      else if tableAt cfg (w &&& maskM12) ≠ .absent then some (w &&& maskM12)
      else none := by
  simp only [decodeKey, h, decodeMasks, List.map, List.find?]
  cases tableAt cfg (w &&& maskM4) <;> cases tableAt cfg (w &&& maskM8) <;>
    cases tableAt cfg (w &&& maskM12) <;> rfl

/-- Decode under the alternative order, step by step (R78). -/
theorem decodeKey_specificFirst {cfg : Config} (h : cfg.decodeOrder = .specificFirst) (w : Word) :
    decodeKey cfg w =
      if tableAt cfg (w &&& maskM12) ≠ .absent then some (w &&& maskM12)
      else if tableAt cfg (w &&& maskM8) ≠ .absent then some (w &&& maskM8)
      else if tableAt cfg (w &&& maskM4) ≠ .absent then some (w &&& maskM4)
      else none := by
  simp only [decodeKey, h, decodeMasks, List.map, List.find?]
  cases tableAt cfg (w &&& maskM4) <;> cases tableAt cfg (w &&& maskM8) <;>
    cases tableAt cfg (w &&& maskM12) <;> rfl

/-- A decoded key is present in the table (R78, R107). -/
theorem decodeKey_present {cfg : Config} {w : Word} {k : Key} (h : decodeKey cfg w = some k) :
    tableAt cfg k ≠ .absent := by
  have := List.find?_some h
  simpa using this

/-- Decode reads the order and the table of its configuration and nothing else (R84). -/
theorem decodeKey_congr {cfg cfg' : Config} (ho : cfg'.decodeOrder = cfg.decodeOrder)
    (hp : cfg'.placeholderKeys = cfg.placeholderKeys) (w : Word) : decodeKey cfg' w = decodeKey cfg w := by
  have ht : tableAt cfg' = tableAt cfg := by
    funext k
    simp only [tableAt, hp]
  simp only [decodeKey, ho, ht]

/-- What the decoder has done when it answers an instruction (R78, R103). -/
theorem decode_ok {cfg : Config} {w : Word} {i : Instr} (h : decode cfg w = .ok i) :
    ∃ k, decodeKey cfg w = some k ∧ instrOfKey k w = some i := by
  unfold decode at h
  split at h
  · cases h
  · rename_i k hk
    split at h
    · rename_i j hj
      exact ⟨k, hk, by rw [hj]; injection h with h; rw [h]⟩
    · cases h

theorem decode_of_key {cfg : Config} {w : Word} {k : Key} {i : Instr} (hk : decodeKey cfg w = some k)
    (hi : instrOfKey k w = some i) : decode cfg w = .ok i := by
  simp [decode, hk, hi]

/-- A key names the instruction whose key it is (R76, R221). -/
theorem instrOfKey_key {k : Key} {op : Word} {i : Instr} (h : instrOfKey k op = some i) : i.key = k := by
  unfold instrOfKey at h
  split at h <;> first | (injection h with h; subst h; rfl) | cases h

end Sys2Proof
end

