-- ==== Sys2Proof/Laws/State.lean ====
section
/-! SUPPORT. One lemma per field per update of the state, so that no later proof unfolds a record update. -/

namespace Sys2Proof.Machine

@[simp] theorem State.writeV_v (s : State) (i : Nibble) (b : Byte) : (s.writeV i b).v = s.v.set i.toNat b i.isLt := rfl
@[simp] theorem State.writeV_ireg (s : State) (i : Nibble) (b : Byte) : (s.writeV i b).ireg = s.ireg := rfl
@[simp] theorem State.writeV_pc (s : State) (i : Nibble) (b : Byte) : (s.writeV i b).pc = s.pc := rfl
@[simp] theorem State.writeV_stack (s : State) (i : Nibble) (b : Byte) : (s.writeV i b).stack = s.stack := rfl
@[simp] theorem State.writeV_sp (s : State) (i : Nibble) (b : Byte) : (s.writeV i b).sp = s.sp := rfl
@[simp] theorem State.writeV_dt (s : State) (i : Nibble) (b : Byte) : (s.writeV i b).dt = s.dt := rfl
@[simp] theorem State.writeV_st (s : State) (i : Nibble) (b : Byte) : (s.writeV i b).st = s.st := rfl
@[simp] theorem State.writeV_op (s : State) (i : Nibble) (b : Byte) : (s.writeV i b).op = s.op := rfl
@[simp] theorem State.writeV_mem (s : State) (i : Nibble) (b : Byte) : (s.writeV i b).mem = s.mem := rfl
@[simp] theorem State.writeV_display (s : State) (i : Nibble) (b : Byte) : (s.writeV i b).display = s.display := rfl
@[simp] theorem State.writeV_config (s : State) (i : Nibble) (b : Byte) : (s.writeV i b).config = s.config := rfl
@[simp] theorem State.writeV_pending (s : State) (i : Nibble) (b : Byte) : (s.writeV i b).pending = s.pending := rfl
@[simp] theorem State.writeV_response (s : State) (i : Nibble) (b : Byte) : (s.writeV i b).response = s.response := rfl
@[simp] theorem State.writeV_faultLog (s : State) (i : Nibble) (b : Byte) : (s.writeV i b).faultLog = s.faultLog := rfl

@[simp] theorem State.setI_v (s : State) (w : Word) : (s.setI w).v = s.v := rfl
@[simp] theorem State.setI_ireg (s : State) (w : Word) : (s.setI w).ireg = w := rfl
@[simp] theorem State.setI_pc (s : State) (w : Word) : (s.setI w).pc = s.pc := rfl
@[simp] theorem State.setI_stack (s : State) (w : Word) : (s.setI w).stack = s.stack := rfl
@[simp] theorem State.setI_sp (s : State) (w : Word) : (s.setI w).sp = s.sp := rfl
@[simp] theorem State.setI_dt (s : State) (w : Word) : (s.setI w).dt = s.dt := rfl
@[simp] theorem State.setI_st (s : State) (w : Word) : (s.setI w).st = s.st := rfl
@[simp] theorem State.setI_op (s : State) (w : Word) : (s.setI w).op = s.op := rfl
@[simp] theorem State.setI_mem (s : State) (w : Word) : (s.setI w).mem = s.mem := rfl
@[simp] theorem State.setI_display (s : State) (w : Word) : (s.setI w).display = s.display := rfl
@[simp] theorem State.setI_config (s : State) (w : Word) : (s.setI w).config = s.config := rfl
@[simp] theorem State.setI_pending (s : State) (w : Word) : (s.setI w).pending = s.pending := rfl
@[simp] theorem State.setI_response (s : State) (w : Word) : (s.setI w).response = s.response := rfl
@[simp] theorem State.setI_faultLog (s : State) (w : Word) : (s.setI w).faultLog = s.faultLog := rfl

@[simp] theorem State.setDT_v (s : State) (b : Byte) : (s.setDT b).v = s.v := rfl
@[simp] theorem State.setDT_ireg (s : State) (b : Byte) : (s.setDT b).ireg = s.ireg := rfl
@[simp] theorem State.setDT_pc (s : State) (b : Byte) : (s.setDT b).pc = s.pc := rfl
@[simp] theorem State.setDT_stack (s : State) (b : Byte) : (s.setDT b).stack = s.stack := rfl
@[simp] theorem State.setDT_sp (s : State) (b : Byte) : (s.setDT b).sp = s.sp := rfl
@[simp] theorem State.setDT_dt (s : State) (b : Byte) : (s.setDT b).dt = b := rfl
@[simp] theorem State.setDT_st (s : State) (b : Byte) : (s.setDT b).st = s.st := rfl
@[simp] theorem State.setDT_op (s : State) (b : Byte) : (s.setDT b).op = s.op := rfl
@[simp] theorem State.setDT_mem (s : State) (b : Byte) : (s.setDT b).mem = s.mem := rfl
@[simp] theorem State.setDT_display (s : State) (b : Byte) : (s.setDT b).display = s.display := rfl
@[simp] theorem State.setDT_config (s : State) (b : Byte) : (s.setDT b).config = s.config := rfl
@[simp] theorem State.setDT_pending (s : State) (b : Byte) : (s.setDT b).pending = s.pending := rfl
@[simp] theorem State.setDT_response (s : State) (b : Byte) : (s.setDT b).response = s.response := rfl
@[simp] theorem State.setDT_faultLog (s : State) (b : Byte) : (s.setDT b).faultLog = s.faultLog := rfl

@[simp] theorem State.setST_v (s : State) (b : Byte) : (s.setST b).v = s.v := rfl
@[simp] theorem State.setST_ireg (s : State) (b : Byte) : (s.setST b).ireg = s.ireg := rfl
@[simp] theorem State.setST_pc (s : State) (b : Byte) : (s.setST b).pc = s.pc := rfl
@[simp] theorem State.setST_stack (s : State) (b : Byte) : (s.setST b).stack = s.stack := rfl
@[simp] theorem State.setST_sp (s : State) (b : Byte) : (s.setST b).sp = s.sp := rfl
@[simp] theorem State.setST_dt (s : State) (b : Byte) : (s.setST b).dt = s.dt := rfl
@[simp] theorem State.setST_st (s : State) (b : Byte) : (s.setST b).st = b := rfl
@[simp] theorem State.setST_op (s : State) (b : Byte) : (s.setST b).op = s.op := rfl
@[simp] theorem State.setST_mem (s : State) (b : Byte) : (s.setST b).mem = s.mem := rfl
@[simp] theorem State.setST_display (s : State) (b : Byte) : (s.setST b).display = s.display := rfl
@[simp] theorem State.setST_config (s : State) (b : Byte) : (s.setST b).config = s.config := rfl
@[simp] theorem State.setST_pending (s : State) (b : Byte) : (s.setST b).pending = s.pending := rfl
@[simp] theorem State.setST_response (s : State) (b : Byte) : (s.setST b).response = s.response := rfl
@[simp] theorem State.setST_faultLog (s : State) (b : Byte) : (s.setST b).faultLog = s.faultLog := rfl

@[simp] theorem State.setOP_v (s : State) (w : Word) : (s.setOP w).v = s.v := rfl
@[simp] theorem State.setOP_ireg (s : State) (w : Word) : (s.setOP w).ireg = s.ireg := rfl
@[simp] theorem State.setOP_pc (s : State) (w : Word) : (s.setOP w).pc = s.pc := rfl
@[simp] theorem State.setOP_stack (s : State) (w : Word) : (s.setOP w).stack = s.stack := rfl
@[simp] theorem State.setOP_sp (s : State) (w : Word) : (s.setOP w).sp = s.sp := rfl
@[simp] theorem State.setOP_dt (s : State) (w : Word) : (s.setOP w).dt = s.dt := rfl
@[simp] theorem State.setOP_st (s : State) (w : Word) : (s.setOP w).st = s.st := rfl
@[simp] theorem State.setOP_op (s : State) (w : Word) : (s.setOP w).op = w := rfl
@[simp] theorem State.setOP_mem (s : State) (w : Word) : (s.setOP w).mem = s.mem := rfl
@[simp] theorem State.setOP_display (s : State) (w : Word) : (s.setOP w).display = s.display := rfl
@[simp] theorem State.setOP_config (s : State) (w : Word) : (s.setOP w).config = s.config := rfl
@[simp] theorem State.setOP_pending (s : State) (w : Word) : (s.setOP w).pending = s.pending := rfl
@[simp] theorem State.setOP_response (s : State) (w : Word) : (s.setOP w).response = s.response := rfl
@[simp] theorem State.setOP_faultLog (s : State) (w : Word) : (s.setOP w).faultLog = s.faultLog := rfl

@[simp] theorem State.setPC_v (s : State) (w : Word) : (s.setPC w).v = s.v := rfl
@[simp] theorem State.setPC_ireg (s : State) (w : Word) : (s.setPC w).ireg = s.ireg := rfl
@[simp] theorem State.setPC_pc (s : State) (w : Word) : (s.setPC w).pc = w := rfl
@[simp] theorem State.setPC_stack (s : State) (w : Word) : (s.setPC w).stack = s.stack := rfl
@[simp] theorem State.setPC_sp (s : State) (w : Word) : (s.setPC w).sp = s.sp := rfl
@[simp] theorem State.setPC_dt (s : State) (w : Word) : (s.setPC w).dt = s.dt := rfl
@[simp] theorem State.setPC_st (s : State) (w : Word) : (s.setPC w).st = s.st := rfl
@[simp] theorem State.setPC_op (s : State) (w : Word) : (s.setPC w).op = s.op := rfl
@[simp] theorem State.setPC_mem (s : State) (w : Word) : (s.setPC w).mem = s.mem := rfl
@[simp] theorem State.setPC_display (s : State) (w : Word) : (s.setPC w).display = s.display := rfl
@[simp] theorem State.setPC_config (s : State) (w : Word) : (s.setPC w).config = s.config := rfl
@[simp] theorem State.setPC_pending (s : State) (w : Word) : (s.setPC w).pending = s.pending := rfl
@[simp] theorem State.setPC_response (s : State) (w : Word) : (s.setPC w).response = s.response := rfl
@[simp] theorem State.setPC_faultLog (s : State) (w : Word) : (s.setPC w).faultLog = s.faultLog := rfl

@[simp] theorem State.increaseProgramCounter_v (s : State) : (s.increaseProgramCounter).v = s.v := rfl
@[simp] theorem State.increaseProgramCounter_ireg (s : State) : (s.increaseProgramCounter).ireg = s.ireg := rfl
@[simp] theorem State.increaseProgramCounter_pc (s : State) : (s.increaseProgramCounter).pc = s.pc + 2 := rfl
@[simp] theorem State.increaseProgramCounter_stack (s : State) : (s.increaseProgramCounter).stack = s.stack := rfl
@[simp] theorem State.increaseProgramCounter_sp (s : State) : (s.increaseProgramCounter).sp = s.sp := rfl
@[simp] theorem State.increaseProgramCounter_dt (s : State) : (s.increaseProgramCounter).dt = s.dt := rfl
@[simp] theorem State.increaseProgramCounter_st (s : State) : (s.increaseProgramCounter).st = s.st := rfl
@[simp] theorem State.increaseProgramCounter_op (s : State) : (s.increaseProgramCounter).op = s.op := rfl
@[simp] theorem State.increaseProgramCounter_mem (s : State) : (s.increaseProgramCounter).mem = s.mem := rfl
@[simp] theorem State.increaseProgramCounter_display (s : State) : (s.increaseProgramCounter).display = s.display := rfl
@[simp] theorem State.increaseProgramCounter_config (s : State) : (s.increaseProgramCounter).config = s.config := rfl
@[simp] theorem State.increaseProgramCounter_pending (s : State) : (s.increaseProgramCounter).pending = s.pending := rfl
@[simp] theorem State.increaseProgramCounter_response (s : State) : (s.increaseProgramCounter).response = s.response := rfl
@[simp] theorem State.increaseProgramCounter_faultLog (s : State) : (s.increaseProgramCounter).faultLog = s.faultLog := rfl

@[simp] theorem State.skipInstruction_v (s : State) : (s.skipInstruction).v = s.v := rfl
@[simp] theorem State.skipInstruction_ireg (s : State) : (s.skipInstruction).ireg = s.ireg := rfl
@[simp] theorem State.skipInstruction_pc (s : State) : (s.skipInstruction).pc = s.pc + 4 := rfl
@[simp] theorem State.skipInstruction_stack (s : State) : (s.skipInstruction).stack = s.stack := rfl
@[simp] theorem State.skipInstruction_sp (s : State) : (s.skipInstruction).sp = s.sp := rfl
@[simp] theorem State.skipInstruction_dt (s : State) : (s.skipInstruction).dt = s.dt := rfl
@[simp] theorem State.skipInstruction_st (s : State) : (s.skipInstruction).st = s.st := rfl
@[simp] theorem State.skipInstruction_op (s : State) : (s.skipInstruction).op = s.op := rfl
@[simp] theorem State.skipInstruction_mem (s : State) : (s.skipInstruction).mem = s.mem := rfl
@[simp] theorem State.skipInstruction_display (s : State) : (s.skipInstruction).display = s.display := rfl
@[simp] theorem State.skipInstruction_config (s : State) : (s.skipInstruction).config = s.config := rfl
@[simp] theorem State.skipInstruction_pending (s : State) : (s.skipInstruction).pending = s.pending := rfl
@[simp] theorem State.skipInstruction_response (s : State) : (s.skipInstruction).response = s.response := rfl
@[simp] theorem State.skipInstruction_faultLog (s : State) : (s.skipInstruction).faultLog = s.faultLog := rfl

@[simp] theorem State.push_v (s : State) (w : Word) (free : s.sp.val < 16) : (s.push w free).v = s.v := rfl
@[simp] theorem State.push_ireg (s : State) (w : Word) (free : s.sp.val < 16) : (s.push w free).ireg = s.ireg := rfl
@[simp] theorem State.push_pc (s : State) (w : Word) (free : s.sp.val < 16) : (s.push w free).pc = s.pc := rfl
@[simp] theorem State.push_stack (s : State) (w : Word) (free : s.sp.val < 16) : (s.push w free).stack = s.stack.set s.sp.val w free := rfl
@[simp] theorem State.push_sp (s : State) (w : Word) (free : s.sp.val < 16) : (s.push w free).sp = ⟨s.sp.val + 1, Nat.succ_lt_succ free⟩ := rfl
@[simp] theorem State.push_dt (s : State) (w : Word) (free : s.sp.val < 16) : (s.push w free).dt = s.dt := rfl
@[simp] theorem State.push_st (s : State) (w : Word) (free : s.sp.val < 16) : (s.push w free).st = s.st := rfl
@[simp] theorem State.push_op (s : State) (w : Word) (free : s.sp.val < 16) : (s.push w free).op = s.op := rfl
@[simp] theorem State.push_mem (s : State) (w : Word) (free : s.sp.val < 16) : (s.push w free).mem = s.mem := rfl
@[simp] theorem State.push_display (s : State) (w : Word) (free : s.sp.val < 16) : (s.push w free).display = s.display := rfl
@[simp] theorem State.push_config (s : State) (w : Word) (free : s.sp.val < 16) : (s.push w free).config = s.config := rfl
@[simp] theorem State.push_pending (s : State) (w : Word) (free : s.sp.val < 16) : (s.push w free).pending = s.pending := rfl
@[simp] theorem State.push_response (s : State) (w : Word) (free : s.sp.val < 16) : (s.push w free).response = s.response := rfl
@[simp] theorem State.push_faultLog (s : State) (w : Word) (free : s.sp.val < 16) : (s.push w free).faultLog = s.faultLog := rfl

@[simp] theorem State.dropHead_v (s : State) : s.dropHead.v = s.v := rfl
@[simp] theorem State.dropHead_ireg (s : State) : s.dropHead.ireg = s.ireg := rfl
@[simp] theorem State.dropHead_pc (s : State) : s.dropHead.pc = s.pc := rfl
@[simp] theorem State.dropHead_stack (s : State) : s.dropHead.stack = s.stack := rfl
@[simp] theorem State.dropHead_sp (s : State) : s.dropHead.sp = s.sp := rfl
@[simp] theorem State.dropHead_dt (s : State) : s.dropHead.dt = s.dt := rfl
@[simp] theorem State.dropHead_st (s : State) : s.dropHead.st = s.st := rfl
@[simp] theorem State.dropHead_op (s : State) : s.dropHead.op = s.op := rfl
@[simp] theorem State.dropHead_mem (s : State) : s.dropHead.mem = s.mem := rfl
@[simp] theorem State.dropHead_display (s : State) : s.dropHead.display = s.display := rfl
@[simp] theorem State.dropHead_config (s : State) : s.dropHead.config = s.config := rfl
@[simp] theorem State.dropHead_response (s : State) : s.dropHead.response = s.response := rfl
@[simp] theorem State.dropHead_faultLog (s : State) : s.dropHead.faultLog = s.faultLog := rfl
@[simp] theorem State.dropHead_pending (s : State) : s.dropHead.pending = s.pending.tail := rfl

@[simp] theorem State.respond_v (s : State) (r : Response) : (s.respond r).v = s.v := rfl
@[simp] theorem State.respond_ireg (s : State) (r : Response) : (s.respond r).ireg = s.ireg := rfl
@[simp] theorem State.respond_pc (s : State) (r : Response) : (s.respond r).pc = s.pc := rfl
@[simp] theorem State.respond_stack (s : State) (r : Response) : (s.respond r).stack = s.stack := rfl
@[simp] theorem State.respond_sp (s : State) (r : Response) : (s.respond r).sp = s.sp := rfl
@[simp] theorem State.respond_dt (s : State) (r : Response) : (s.respond r).dt = s.dt := rfl
@[simp] theorem State.respond_st (s : State) (r : Response) : (s.respond r).st = s.st := rfl
@[simp] theorem State.respond_op (s : State) (r : Response) : (s.respond r).op = s.op := rfl
@[simp] theorem State.respond_mem (s : State) (r : Response) : (s.respond r).mem = s.mem := rfl
@[simp] theorem State.respond_display (s : State) (r : Response) : (s.respond r).display = s.display := rfl
@[simp] theorem State.respond_config (s : State) (r : Response) : (s.respond r).config = s.config := rfl
@[simp] theorem State.respond_pending (s : State) (r : Response) : (s.respond r).pending = s.pending := rfl
@[simp] theorem State.respond_response (s : State) (r : Response) : (s.respond r).response = r := rfl
@[simp] theorem State.respond_faultLog (s : State) (r : Response) : (s.respond r).faultLog = s.faultLog := rfl

@[simp] theorem State.recordError_v (s : State) (e : CoreError) : (s.recordError e).v = s.v := rfl
@[simp] theorem State.recordError_ireg (s : State) (e : CoreError) : (s.recordError e).ireg = s.ireg := rfl
@[simp] theorem State.recordError_pc (s : State) (e : CoreError) : (s.recordError e).pc = s.pc := rfl
@[simp] theorem State.recordError_stack (s : State) (e : CoreError) : (s.recordError e).stack = s.stack := rfl
@[simp] theorem State.recordError_sp (s : State) (e : CoreError) : (s.recordError e).sp = s.sp := rfl
@[simp] theorem State.recordError_dt (s : State) (e : CoreError) : (s.recordError e).dt = s.dt := rfl
@[simp] theorem State.recordError_st (s : State) (e : CoreError) : (s.recordError e).st = s.st := rfl
@[simp] theorem State.recordError_op (s : State) (e : CoreError) : (s.recordError e).op = s.op := rfl
@[simp] theorem State.recordError_mem (s : State) (e : CoreError) : (s.recordError e).mem = s.mem := rfl
@[simp] theorem State.recordError_display (s : State) (e : CoreError) : (s.recordError e).display = s.display := rfl
@[simp] theorem State.recordError_config (s : State) (e : CoreError) : (s.recordError e).config = s.config := rfl
@[simp] theorem State.recordError_pending (s : State) (e : CoreError) : (s.recordError e).pending = s.pending := rfl
@[simp] theorem State.recordError_response (s : State) (e : CoreError) : (s.recordError e).response = .err e := rfl
@[simp] theorem State.recordError_faultLog (s : State) (e : CoreError) : (s.recordError e).faultLog = s.faultLog ++ [e] := rfl

@[simp] theorem State.setCarry_v (s : State) (b : Bool) : (s.setCarry b).v = s.v.set flagIndex.toNat (if b then 1 else 0) flagIndex.isLt := rfl
@[simp] theorem State.setCarry_ireg (s : State) (b : Bool) : (s.setCarry b).ireg = s.ireg := rfl
@[simp] theorem State.setCarry_pc (s : State) (b : Bool) : (s.setCarry b).pc = s.pc := rfl
@[simp] theorem State.setCarry_stack (s : State) (b : Bool) : (s.setCarry b).stack = s.stack := rfl
@[simp] theorem State.setCarry_sp (s : State) (b : Bool) : (s.setCarry b).sp = s.sp := rfl
@[simp] theorem State.setCarry_dt (s : State) (b : Bool) : (s.setCarry b).dt = s.dt := rfl
@[simp] theorem State.setCarry_st (s : State) (b : Bool) : (s.setCarry b).st = s.st := rfl
@[simp] theorem State.setCarry_op (s : State) (b : Bool) : (s.setCarry b).op = s.op := rfl
@[simp] theorem State.setCarry_mem (s : State) (b : Bool) : (s.setCarry b).mem = s.mem := rfl
@[simp] theorem State.setCarry_display (s : State) (b : Bool) : (s.setCarry b).display = s.display := rfl
@[simp] theorem State.setCarry_config (s : State) (b : Bool) : (s.setCarry b).config = s.config := rfl
@[simp] theorem State.setCarry_pending (s : State) (b : Bool) : (s.setCarry b).pending = s.pending := rfl
@[simp] theorem State.setCarry_response (s : State) (b : Bool) : (s.setCarry b).response = s.response := rfl
@[simp] theorem State.setCarry_faultLog (s : State) (b : Bool) : (s.setCarry b).faultLog = s.faultLog := rfl

@[simp] theorem State.displayClear_v (s : State) : (s.displayClear).v = s.v := rfl
@[simp] theorem State.displayClear_ireg (s : State) : (s.displayClear).ireg = s.ireg := rfl
@[simp] theorem State.displayClear_pc (s : State) : (s.displayClear).pc = s.pc := rfl
@[simp] theorem State.displayClear_stack (s : State) : (s.displayClear).stack = s.stack := rfl
@[simp] theorem State.displayClear_sp (s : State) : (s.displayClear).sp = s.sp := rfl
@[simp] theorem State.displayClear_dt (s : State) : (s.displayClear).dt = s.dt := rfl
@[simp] theorem State.displayClear_st (s : State) : (s.displayClear).st = s.st := rfl
@[simp] theorem State.displayClear_op (s : State) : (s.displayClear).op = s.op := rfl
@[simp] theorem State.displayClear_mem (s : State) : (s.displayClear).mem = s.mem := rfl
@[simp] theorem State.displayClear_display (s : State) : (s.displayClear).display = [] := rfl
@[simp] theorem State.displayClear_config (s : State) : (s.displayClear).config = s.config := rfl
@[simp] theorem State.displayClear_pending (s : State) : (s.displayClear).pending = s.pending := rfl
@[simp] theorem State.displayClear_response (s : State) : (s.displayClear).response = s.response := rfl
@[simp] theorem State.displayClear_faultLog (s : State) : (s.displayClear).faultLog = s.faultLog := rfl

@[simp] theorem State.setPixel_v (s : State) (x y : Int) (isOn : Bool) : (s.setPixel x y isOn).v = s.v := rfl
@[simp] theorem State.setPixel_ireg (s : State) (x y : Int) (isOn : Bool) : (s.setPixel x y isOn).ireg = s.ireg := rfl
@[simp] theorem State.setPixel_pc (s : State) (x y : Int) (isOn : Bool) : (s.setPixel x y isOn).pc = s.pc := rfl
@[simp] theorem State.setPixel_stack (s : State) (x y : Int) (isOn : Bool) : (s.setPixel x y isOn).stack = s.stack := rfl
@[simp] theorem State.setPixel_sp (s : State) (x y : Int) (isOn : Bool) : (s.setPixel x y isOn).sp = s.sp := rfl
@[simp] theorem State.setPixel_dt (s : State) (x y : Int) (isOn : Bool) : (s.setPixel x y isOn).dt = s.dt := rfl
@[simp] theorem State.setPixel_st (s : State) (x y : Int) (isOn : Bool) : (s.setPixel x y isOn).st = s.st := rfl
@[simp] theorem State.setPixel_op (s : State) (x y : Int) (isOn : Bool) : (s.setPixel x y isOn).op = s.op := rfl
@[simp] theorem State.setPixel_mem (s : State) (x y : Int) (isOn : Bool) : (s.setPixel x y isOn).mem = s.mem := rfl
@[simp] theorem State.setPixel_display (s : State) (x y : Int) (isOn : Bool) : (s.setPixel x y isOn).display = if isOn then insertCell s.display (s.cellNumber x y) else removeCell s.display (s.cellNumber x y) := rfl
@[simp] theorem State.setPixel_config (s : State) (x y : Int) (isOn : Bool) : (s.setPixel x y isOn).config = s.config := rfl
@[simp] theorem State.setPixel_pending (s : State) (x y : Int) (isOn : Bool) : (s.setPixel x y isOn).pending = s.pending := rfl
@[simp] theorem State.setPixel_response (s : State) (x y : Int) (isOn : Bool) : (s.setPixel x y isOn).response = s.response := rfl
@[simp] theorem State.setPixel_faultLog (s : State) (x y : Int) (isOn : Bool) : (s.setPixel x y isOn).faultLog = s.faultLog := rfl

@[simp] theorem State.resetCore_v (s : State) : (s.resetCore).v = Vector.replicate 16 0 := rfl
@[simp] theorem State.resetCore_ireg (s : State) : (s.resetCore).ireg = 0 := rfl
@[simp] theorem State.resetCore_pc (s : State) : (s.resetCore).pc = 0x200 := rfl
@[simp] theorem State.resetCore_stack (s : State) : (s.resetCore).stack = Vector.replicate 16 0 := rfl
@[simp] theorem State.resetCore_sp (s : State) : (s.resetCore).sp = 0 := rfl
@[simp] theorem State.resetCore_dt (s : State) : (s.resetCore).dt = 0 := rfl
@[simp] theorem State.resetCore_st (s : State) : (s.resetCore).st = 0 := rfl
@[simp] theorem State.resetCore_op (s : State) : (s.resetCore).op = 0 := rfl
@[simp] theorem State.resetCore_mem (s : State) : (s.resetCore).mem = s.mem := rfl
@[simp] theorem State.resetCore_display (s : State) : (s.resetCore).display = s.display := rfl
@[simp] theorem State.resetCore_config (s : State) : (s.resetCore).config = s.config := rfl
@[simp] theorem State.resetCore_pending (s : State) : (s.resetCore).pending = s.pending := rfl
@[simp] theorem State.resetCore_response (s : State) : (s.resetCore).response = s.response := rfl
@[simp] theorem State.resetCore_faultLog (s : State) : (s.resetCore).faultLog = s.faultLog := rfl

@[simp] theorem State.skipIf_v (s : State) (c : Bool) : (s.skipIf c).v = s.v := by cases c <;> rfl
@[simp] theorem State.skipIf_ireg (s : State) (c : Bool) : (s.skipIf c).ireg = s.ireg := by cases c <;> rfl
@[simp] theorem State.skipIf_pc (s : State) (c : Bool) :
    (s.skipIf c).pc = if c then s.pc + 4 else s.pc + 2 := by cases c <;> rfl
@[simp] theorem State.skipIf_stack (s : State) (c : Bool) : (s.skipIf c).stack = s.stack := by cases c <;> rfl
@[simp] theorem State.skipIf_sp (s : State) (c : Bool) : (s.skipIf c).sp = s.sp := by cases c <;> rfl
@[simp] theorem State.skipIf_dt (s : State) (c : Bool) : (s.skipIf c).dt = s.dt := by cases c <;> rfl
@[simp] theorem State.skipIf_st (s : State) (c : Bool) : (s.skipIf c).st = s.st := by cases c <;> rfl
@[simp] theorem State.skipIf_op (s : State) (c : Bool) : (s.skipIf c).op = s.op := by cases c <;> rfl
@[simp] theorem State.skipIf_mem (s : State) (c : Bool) : (s.skipIf c).mem = s.mem := by cases c <;> rfl
@[simp] theorem State.skipIf_display (s : State) (c : Bool) : (s.skipIf c).display = s.display := by cases c <;> rfl
@[simp] theorem State.skipIf_config (s : State) (c : Bool) : (s.skipIf c).config = s.config := by cases c <;> rfl
@[simp] theorem State.skipIf_pending (s : State) (c : Bool) : (s.skipIf c).pending = s.pending := by cases c <;> rfl
@[simp] theorem State.skipIf_response (s : State) (c : Bool) : (s.skipIf c).response = s.response := by cases c <;> rfl
@[simp] theorem State.skipIf_faultLog (s : State) (c : Bool) : (s.skipIf c).faultLog = s.faultLog := by cases c <;> rfl

@[simp] theorem State.tick_v (s : State) : s.tick.v = s.v := by
  unfold State.tick; cases s.config.timerTick <;> rfl
@[simp] theorem State.tick_ireg (s : State) : s.tick.ireg = s.ireg := by
  unfold State.tick; cases s.config.timerTick <;> rfl
@[simp] theorem State.tick_pc (s : State) : s.tick.pc = s.pc := by
  unfold State.tick; cases s.config.timerTick <;> rfl
@[simp] theorem State.tick_stack (s : State) : s.tick.stack = s.stack := by
  unfold State.tick; cases s.config.timerTick <;> rfl
@[simp] theorem State.tick_sp (s : State) : s.tick.sp = s.sp := by
  unfold State.tick; cases s.config.timerTick <;> rfl
@[simp] theorem State.tick_op (s : State) : s.tick.op = s.op := by
  unfold State.tick; cases s.config.timerTick <;> rfl
@[simp] theorem State.tick_mem (s : State) : s.tick.mem = s.mem := by
  unfold State.tick; cases s.config.timerTick <;> rfl
@[simp] theorem State.tick_display (s : State) : s.tick.display = s.display := by
  unfold State.tick; cases s.config.timerTick <;> rfl
@[simp] theorem State.tick_config (s : State) : s.tick.config = s.config := by
  unfold State.tick; cases s.config.timerTick <;> rfl
@[simp] theorem State.tick_pending (s : State) : s.tick.pending = s.pending := by
  unfold State.tick; cases s.config.timerTick <;> rfl
@[simp] theorem State.tick_response (s : State) : s.tick.response = s.response := by
  unfold State.tick; cases s.config.timerTick <;> rfl
@[simp] theorem State.tick_faultLog (s : State) : s.tick.faultLog = s.faultLog := by
  unfold State.tick; cases s.config.timerTick <;> rfl

/-- The default tick takes one from a nonzero timer (R207). -/
theorem State.tick_default (s : State) (h : s.config.timerTick = .saturatingDecrement) :
    s.tick.dt.toNat = s.dt.toNat - 1 ∧ s.tick.st.toNat = s.st.toNat - 1 := by
  have step (b : Byte) : (if b = 0 then (0 : Byte) else b - 1).toNat = b.toNat - 1 := by
    by_cases hb : b = 0
    · subst hb; rfl
    · rw [if_neg hb]
      have hpos : b.toNat ≠ 0 := fun hz => hb (BitVec.eq_of_toNat_eq (by simpa using hz))
      have hlt := b.isLt
      have hone : (1 : Byte).toNat = 1 := rfl
      rw [BitVec.toNat_sub, hone]
      omega
  constructor
  · rw [← step s.dt]; simp [State.tick, h]
  · rw [← step s.st]; simp [State.tick, h]

/-! ### Registers -/

/-- A register reads what was written to it (R20). -/
@[simp] theorem State.readV_writeV_same (s : State) (i : Nibble) (b : Byte) : (s.writeV i b).readV i = b := by
  simp [State.readV]

/-- A write leaves every other register alone (R20). -/
theorem State.readV_writeV_of_ne (s : State) (i j : Nibble) (b : Byte) (h : j ≠ i) :
    (s.writeV i b).readV j = s.readV j := by
  have hne : i.toNat ≠ j.toNat := fun e => h (BitVec.eq_of_toNat_eq e.symm)
  simp [State.readV, Vector.getElem_set_ne _ _ hne]

/-- setCarry is a write of VF (R110). -/
theorem State.setCarry_eq (s : State) (b : Bool) : s.setCarry b = s.writeV 0xF (if b then 1 else 0) := rfl

/-- Reading a register depends on the register file alone. -/
theorem State.readV_congr {s t : State} (h : t.v = s.v) (r : Nibble) : t.readV r = s.readV r := by
  simp only [State.readV, h]

@[simp] theorem State.readV_setI (s : State) (w : Word) (reg : Nibble) : (s.setI w).readV reg = s.readV reg := rfl
@[simp] theorem State.readV_setDT (s : State) (b : Byte) (reg : Nibble) : (s.setDT b).readV reg = s.readV reg := rfl
@[simp] theorem State.readV_setST (s : State) (b : Byte) (reg : Nibble) : (s.setST b).readV reg = s.readV reg := rfl
@[simp] theorem State.readV_setOP (s : State) (w : Word) (reg : Nibble) : (s.setOP w).readV reg = s.readV reg := rfl
@[simp] theorem State.readV_setPC (s : State) (w : Word) (reg : Nibble) : (s.setPC w).readV reg = s.readV reg := rfl
@[simp] theorem State.readV_increaseProgramCounter (s : State) (reg : Nibble) : (s.increaseProgramCounter).readV reg = s.readV reg := rfl
@[simp] theorem State.readV_skipInstruction (s : State) (reg : Nibble) : (s.skipInstruction).readV reg = s.readV reg := rfl
@[simp] theorem State.readV_push (s : State) (w : Word) (free : s.sp.val < 16) (reg : Nibble) : (s.push w free).readV reg = s.readV reg := rfl
@[simp] theorem State.readV_respond (s : State) (r : Response) (reg : Nibble) : (s.respond r).readV reg = s.readV reg := rfl
@[simp] theorem State.readV_recordError (s : State) (e : CoreError) (reg : Nibble) : (s.recordError e).readV reg = s.readV reg := rfl
@[simp] theorem State.readV_displayClear (s : State) (reg : Nibble) : (s.displayClear).readV reg = s.readV reg := rfl
@[simp] theorem State.readV_setPixel (s : State) (x y : Int) (isOn : Bool) (reg : Nibble) : (s.setPixel x y isOn).readV reg = s.readV reg := rfl
@[simp] theorem State.readV_skipIf (s : State) (c : Bool) (r : Nibble) : (s.skipIf c).readV r = s.readV r := by
  cases c <;> rfl

/-! ### The stack -/

/-- A pushed word is in the slot SP named; every other slot is as before (R136). -/
theorem State.push_slot (s : State) (w : Word) (free : s.sp.val < 16) (j : Fin 16) :
    (s.push w free).stack[j] = if j.val = s.sp.val then w else s.stack[j] := by
  by_cases h : j.val = s.sp.val
  · simp [h]
  · have hne : s.sp.val ≠ j.val := fun e => h e.symm
    simp [h, Vector.getElem_set_ne _ _ hne]

end Sys2Proof.Machine
end

