-- ==== Sys2Proof/Laws/Display.lean ====
section
/-! SUPPORT. The display surface: its canonical form, and reading a cell after writing one (R59). -/

namespace Sys2Proof.Machine

theorem risingFrom_cons {lo c : Nat} {d : Display} :
    risingFrom lo (c :: d) = true ↔ lo ≤ c ∧ risingFrom (c + 1) d = true := by
  simp [risingFrom]

theorem risingFrom_mono {lo hi : Nat} {d : Display} (h : risingFrom hi d = true) (hle : lo ≤ hi) :
    risingFrom lo d = true := by
  cases d with
  | nil => rfl
  | cons c rest =>
    rw [risingFrom_cons] at h ⊢
    exact ⟨Nat.le_trans hle h.1, h.2⟩

theorem risingFrom_insertCell {lo n : Nat} {d : Display} (h : risingFrom lo d = true) (hn : lo ≤ n) :
    risingFrom lo (insertCell d n) = true := by
  induction d generalizing lo with
  | nil => simp [insertCell, risingFrom, hn]
  | cons c rest ih =>
    have hc := risingFrom_cons.1 h
    rw [insertCell]
    split
    · rename_i hlt
      exact risingFrom_cons.2 ⟨hn, risingFrom_cons.2 ⟨hlt, hc.2⟩⟩
    · split
      · exact h
      · exact risingFrom_cons.2 ⟨hc.1, ih hc.2 (by omega)⟩

theorem risingFrom_removeCell {lo : Nat} {d : Display} (n : Nat) (h : risingFrom lo d = true) :
    risingFrom lo (removeCell d n) = true := by
  induction d generalizing lo with
  | nil => rfl
  | cons c rest ih =>
    have hc := risingFrom_cons.1 h
    by_cases e : c = n
    · simp only [removeCell, e, bne_self_eq_false, Bool.false_eq_true, not_false_eq_true, List.filter_cons_of_neg]
      exact risingFrom_mono (ih hc.2) (by omega)
    · have : (c != n) = true := by simp [e]
      rw [removeCell, List.filter_cons, if_pos this]
      exact risingFrom_cons.2 ⟨hc.1, ih hc.2⟩

theorem mem_insertCell {c n : Nat} {d : Display} : c ∈ insertCell d n ↔ c = n ∨ c ∈ d := by
  induction d with
  | nil => simp [insertCell]
  | cons x rest ih =>
    rw [insertCell]
    split
    · simp
    · split
      · rename_i e
        simp [e]
      · simp only [List.mem_cons, ih]
        tauto

theorem mem_removeCell {c n : Nat} {d : Display} : c ∈ removeCell d n ↔ c ∈ d ∧ c ≠ n := by
  simp [removeCell]

/-! ### Cells -/

theorem State.validCell_iff (s : State) (x y : Int) :
    s.validCell x y = true ↔ (0 ≤ x ∧ x < s.config.displayW) ∧ 0 ≤ y ∧ y < s.config.displayH := by
  simp [State.validCell, and_assoc]

/-- The number of a cell of the display is below the number of cells. -/
theorem State.cellNumber_lt {s : State} {x y : Int} (h : s.validCell x y = true) :
    s.cellNumber x y < s.config.displayW * s.config.displayH := by
  obtain ⟨⟨hx0, hx⟩, hy0, hy⟩ := (s.validCell_iff x y).1 h
  have hxn : x.toNat < s.config.displayW := by omega
  have hyn : y.toNat + 1 ≤ s.config.displayH := by omega
  have hrow := Nat.mul_le_mul_right s.config.displayW hyn
  rw [Nat.add_mul, Nat.one_mul, Nat.mul_comm s.config.displayH] at hrow
  simp only [State.cellNumber]
  omega

/-- Two cells of the display have the same number only if they are the same cell. -/
theorem State.cellNumber_inj {s : State} {x y x' y' : Int} (h : s.validCell x y = true) (h' : s.validCell x' y' = true)
    (e : s.cellNumber x y = s.cellNumber x' y') : x = x' ∧ y = y' := by
  obtain ⟨⟨hx0, hx⟩, hy0, hy⟩ := (s.validCell_iff x y).1 h
  obtain ⟨⟨hx0', hx'⟩, hy0', hy'⟩ := (s.validCell_iff x' y').1 h'
  have hxn : x.toNat < s.config.displayW := by omega
  have hxn' : x'.toNat < s.config.displayW := by omega
  simp only [State.cellNumber] at e
  have hmod := congrArg (· % s.config.displayW) e
  simp only [Nat.mul_add_mod_self_right, Nat.mod_eq_of_lt hxn, Nat.mod_eq_of_lt hxn'] at hmod
  have hpos : 0 < s.config.displayW := by omega
  have hmul : y.toNat * s.config.displayW = y'.toNat * s.config.displayW := by omega
  have hyeq := Nat.eq_of_mul_eq_mul_right hpos hmul
  omega

/-- Reading a cell after setting one (R59). -/
theorem State.getPixel_setPixel {s : State} {x y x' y' : Int} (isOn : Bool)
    (h : s.validCell x y = true) (h' : s.validCell x' y' = true) :
    (s.setPixel x y isOn).getPixel x' y' = if x' = x ∧ y' = y then isOn else s.getPixel x' y' := by
  have hcell : (s.setPixel x y isOn).cellNumber x' y' = s.cellNumber x' y' := rfl
  by_cases e : x' = x ∧ y' = y
  · rw [if_pos e, State.getPixel, hcell, e.1, e.2]
    cases isOn <;> simp [mem_insertCell, mem_removeCell]
  · have hne : s.cellNumber x' y' ≠ s.cellNumber x y := fun e' => e (State.cellNumber_inj h' h e')
    rw [if_neg e, State.getPixel, hcell, State.getPixel, Bool.eq_iff_iff]
    cases isOn <;> simp [mem_insertCell, mem_removeCell, hne]

/-- After a clear every cell is off (R59, R131). -/
theorem State.getPixel_displayClear (s : State) (x y : Int) : s.displayClear.getPixel x y = false := rfl

/-- Setting a cell of the display keeps the display's form. -/
theorem State.setPixel_displayWf {s : State} {x y : Int} (isOn : Bool) (h : displayWf s.config s.display = true)
    (hv : s.validCell x y = true) : displayWf s.config (s.setPixel x y isOn).display = true := by
  have hlt := State.cellNumber_lt hv
  simp only [displayWf, Bool.and_eq_true, List.all_eq_true, decide_eq_true_eq] at h ⊢
  cases isOn
  · simp only [State.setPixel_display, Bool.false_eq_true, if_false]
    exact ⟨risingFrom_removeCell _ h.1, fun c hc => h.2 c (mem_removeCell.1 hc).1⟩
  · simp only [State.setPixel_display, if_true]
    refine ⟨risingFrom_insertCell h.1 (Nat.zero_le _), fun c hc => ?_⟩
    rcases mem_insertCell.1 hc with rfl | hc
    · exact hlt
    · exact h.2 c hc

end Sys2Proof.Machine
end

