-- ==== Sys2Proof/Laws/Memory.lean ====
section
/-! SUPPORT. The byte store: reading after writing, the canonical form, the capacity, and what fetch reads (R50, R52-R54). -/

namespace Sys2Proof.Machine

/-! ### The canonical form -/

theorem canonicalFrom_cons {lo : Nat} {c : Host.Cell} {m : Memory} :
    canonicalFrom lo (c :: m) = true ↔
      lo ≤ c.1 ∧ c.2 ≠ unlistedByte ∧ canonicalFrom (c.1 + 1) m = true := by
  simp [canonicalFrom, and_assoc]

theorem canonicalFrom_mono {lo hi : Nat} {m : Memory} (h : canonicalFrom hi m = true) (hle : lo ≤ hi) :
    canonicalFrom lo m = true := by
  cases m with
  | nil => rfl
  | cons c rest =>
    rw [canonicalFrom_cons] at h ⊢
    exact ⟨Nat.le_trans hle h.1, h.2⟩

/-- Below its first address a canonical list reads as unlisted. -/
theorem readMem_below {lo a : Nat} {m : Memory} (h : canonicalFrom lo m = true) (ha : a < lo) :
    readMem m a = unlistedByte := by
  induction m generalizing lo with
  | nil => rfl
  | cons c rest ih =>
    rw [canonicalFrom_cons] at h
    have hne : c.1 ≠ a := by omega
    rw [readMem, if_neg hne]
    exact ih h.2.2 (by omega)

theorem canonicalFrom_writeMem {lo a : Nat} {m : Memory} (b : Byte) (h : canonicalFrom lo m = true) (ha : lo ≤ a) :
    canonicalFrom lo (writeMem m a b) = true := by
  induction m generalizing lo with
  | nil =>
    rw [writeMem]
    split
    · rfl
    · rename_i hb
      exact canonicalFrom_cons.2 ⟨ha, hb, rfl⟩
  | cons c rest ih =>
    have hc := canonicalFrom_cons.1 h
    rw [writeMem]
    split
    · split
      · exact h
      · rename_i hlt hb
        exact canonicalFrom_cons.2 ⟨ha, hb, canonicalFrom_cons.2 ⟨hlt, hc.2⟩⟩
    · split
      · rename_i heq
        split
        · exact canonicalFrom_mono hc.2.2 (by omega)
        · rename_i hb
          exact canonicalFrom_cons.2 ⟨ha, hb, by rw [heq]; exact hc.2.2⟩
      · exact canonicalFrom_cons.2 ⟨hc.1, hc.2.1, ih hc.2.2 (by omega)⟩

/-- A write keeps the canonical form. -/
theorem writeMem_wf {m : Memory} (a : Nat) (b : Byte) (h : Memory.wf m = true) :
    Memory.wf (writeMem m a b) = true :=
  canonicalFrom_writeMem b h (Nat.zero_le a)

/-- A write below the capacity keeps every address below it. -/
theorem writeMem_withinCapacity {n a : Nat} {m : Memory} (b : Byte) (h : withinCapacity n m = true) (ha : a < n) :
    withinCapacity n (writeMem m a b) = true := by
  induction m with
  | nil => rw [writeMem]; split <;> simp [withinCapacity, ha]
  | cons c rest ih =>
    simp only [withinCapacity, List.all_cons, Bool.and_eq_true, decide_eq_true_eq] at h ih ⊢
    rw [writeMem]
    split
    · split <;> simp [ha, h.1, h.2]
    · split
      · split <;> simp [ha, h.2]
      · simp [h.1, ih h.2]

/-! ### Reading after writing -/

/-- A read after a write gives the byte written at that address and the old byte elsewhere (R50). -/
theorem readMem_writeMem_from {lo a : Nat} {m : Memory} (b : Byte) (a' : Nat) (h : canonicalFrom lo m = true) :
    readMem (writeMem m a b) a' = if a' = a then b else readMem m a' := by
  induction m generalizing lo with
  | nil =>
    rw [writeMem]
    split
    · rename_i hb
      by_cases e : a' = a <;> simp [readMem, e, hb]
    · by_cases e : a' = a
      · simp [readMem, e]
      · simp [readMem, e, Ne.symm e]
  | cons c rest ih =>
    have hc := canonicalFrom_cons.1 h
    rw [writeMem]
    split
    · rename_i hlt
      have hbelow : readMem (c :: rest) a = unlistedByte := readMem_below (lo := c.1)
        (canonicalFrom_cons.2 ⟨Nat.le_refl _, hc.2⟩) hlt
      split
      · rename_i hb
        by_cases e : a' = a
        · rw [e, hbelow, if_pos rfl, hb]
        · rw [if_neg e]
      · by_cases e : a' = a
        · simp [readMem, e]
        · simp [readMem, e, Ne.symm e]
    · split
      · rename_i heq
        have hbelow : readMem rest a = unlistedByte := readMem_below hc.2.2 (by omega)
        split
        · rename_i hb
          by_cases e : a' = a
          · rw [e, hbelow, if_pos rfl, hb]
          · have hne : c.1 ≠ a' := fun e' => e (e'.symm.trans heq.symm)
            rw [if_neg e, readMem, if_neg hne]
        · by_cases e : a' = a
          · simp [readMem, e]
          · have hne : c.1 ≠ a' := fun e' => e (e'.symm.trans heq.symm)
            simp [readMem, e, Ne.symm e, hne]
      · rename_i hge hne
        rw [readMem]
        by_cases e : c.1 = a'
        · have : a' ≠ a := fun e' => hne (e'.symm.trans e.symm)
          simp [e, this, readMem]
        · rw [if_neg e, ih hc.2.2]
          simp [readMem, e]

theorem readMem_writeMem {m : Memory} (a a' : Nat) (b : Byte) (h : Memory.wf m = true) :
    readMem (writeMem m a b) a' = if a' = a then b else readMem m a' :=
  readMem_writeMem_from b a' h

/-! ### Positions, getByte, setByte -/

theorem State.validPosition_iff (s : State) (p : Int) :
    s.validPosition p = true ↔ 0 ≤ p ∧ p < s.config.memSize := by
  simp [State.validPosition]

theorem State.validPosition_congr {s t : State} (h : t.config = s.config) (p : Int) :
    t.validPosition p = s.validPosition p := by
  simp only [State.validPosition, h]

/-- Reading bytes depends on the byte store and its capacity alone. -/
theorem State.getByte_congr {s t : State} (hm : t.mem = s.mem) (hc : t.config = s.config) (p : Int) :
    t.getByte p = s.getByte p := by
  rw [State.getByte, State.getByte, State.validPosition_congr hc, hm]

theorem State.getByte_valid {s : State} {p : Int} (h : 0 ≤ p ∧ p < s.config.memSize) :
    s.getByte p = some (readMem s.mem p.toNat) := by
  simp [State.getByte, (s.validPosition_iff p).2 h]

theorem State.getByte_invalid {s : State} {p : Int} (h : ¬ (0 ≤ p ∧ p < s.config.memSize)) :
    s.getByte p = none := by
  have : ¬ s.validPosition p = true := fun hv => h ((s.validPosition_iff p).1 hv)
  simp [State.getByte, this]

theorem State.getByte_isSome_iff (s : State) (p : Int) :
    (∃ b, s.getByte p = some b) ↔ 0 ≤ p ∧ p < s.config.memSize := by
  by_cases h : 0 ≤ p ∧ p < s.config.memSize
  · simp [State.getByte_valid h, h]
  · simp [State.getByte_invalid h, h]

theorem State.setByte_valid {s : State} {p : Int} (b : Byte) (h : 0 ≤ p ∧ p < s.config.memSize) :
    s.setByte p b = some { s with mem := writeMem s.mem p.toNat b } := by
  simp [State.setByte, (s.validPosition_iff p).2 h]

theorem State.setByte_invalid {s : State} {p : Int} (b : Byte) (h : ¬ (0 ≤ p ∧ p < s.config.memSize)) :
    s.setByte p b = none := by
  have : ¬ s.validPosition p = true := fun hv => h ((s.validPosition_iff p).1 hv)
  simp [State.setByte, this]

/-- What a successful setByte can do: the position was valid and only the byte store changed. -/
theorem State.setByte_some {s t : State} {p : Int} {b : Byte} (h : s.setByte p b = some t) :
    (0 ≤ p ∧ p < s.config.memSize) ∧ t = { s with mem := writeMem s.mem p.toNat b } := by
  by_cases hv : 0 ≤ p ∧ p < s.config.memSize
  · rw [State.setByte_valid b hv, Option.some.injEq] at h
    exact ⟨hv, h.symm⟩
  · rw [State.setByte_invalid b hv] at h
    cases h

/-! ### Fetch -/

/-- What a successful fetch has read (R52, R53). -/
theorem State.fetch_ok {s : State} {a : Int} {w : Word} (h : s.fetch a = .ok w) :
    ∃ b0 b1, s.getByte a = some b0 ∧ s.getByte (a + 1) = some b1 ∧ w = wordOfBytes b0 b1 := by
  unfold State.fetch at h
  split at h
  · cases h
  · rename_i b0 h0
    split at h
    · cases h
    · rename_i b1 h1
      exact ⟨b0, b1, h0, h1, by injection h with h; exact h.symm⟩

/-- What a failing fetch reports (R52, D5). -/
theorem State.fetch_error {s : State} {a : Int} {e : CoreError} (h : s.fetch a = .error e) :
    (s.getByte a = none ∧ e = .outOfRange a) ∨
    (∃ b0, s.getByte a = some b0 ∧ s.getByte (a + 1) = none ∧ e = .outOfRange (a + 1)) := by
  unfold State.fetch at h
  split at h
  · rename_i h0
    exact .inl ⟨h0, by injection h with h; exact h.symm⟩
  · rename_i b0 h0
    split at h
    · rename_i h1
      exact .inr ⟨b0, h0, h1, by injection h with h; exact h.symm⟩
    · cases h

theorem State.fetch_of_bytes {s : State} {a : Int} {b0 b1 : Byte}
    (h0 : s.getByte a = some b0) (h1 : s.getByte (a + 1) = some b1) : s.fetch a = .ok (wordOfBytes b0 b1) := by
  simp [State.fetch, h0, h1]

/-- Fetching depends on the byte store and its capacity alone (R52 "changes no state", R55). -/
theorem State.fetch_congr {s t : State} (hm : t.mem = s.mem) (hc : t.config = s.config) (a : Int) :
    t.fetch a = s.fetch a := by
  simp only [State.fetch, State.getByte_congr hm hc]

/-- A fetched PC leaves room for its two bytes. -/
theorem State.fetch_position {s : State} {a : Int} {w : Word} (h : s.fetch a = .ok w) :
    0 ≤ a ∧ a + 1 < s.config.memSize := by
  obtain ⟨b0, b1, h0, h1, -⟩ := State.fetch_ok h
  have p0 := (s.getByte_isSome_iff a).1 ⟨b0, h0⟩
  have p1 := (s.getByte_isSome_iff (a + 1)).1 ⟨b1, h1⟩
  exact ⟨p0.1, p1.2⟩

/-! ### Loading bytes -/

/-- Loading changes the byte store only. -/
theorem State.loadBytes_only_mem (s : State) (p : Nat) (bs : List Byte) :
    ∃ m, s.loadBytes p bs = { s with mem := m } := by
  induction bs generalizing s p with
  | nil => exact ⟨s.mem, rfl⟩
  | cons b rest ih =>
    rw [State.loadBytes]
    obtain ⟨m, hm⟩ := ih ((s.setByte p b).getD s) (p + 1)
    refine ⟨m, hm.trans ?_⟩
    cases h : s.setByte p b with
    | none => rfl
    | some t =>
      obtain ⟨-, rfl⟩ := State.setByte_some h
      rfl

end Sys2Proof.Machine
end

