-- ==== Sys2Proof/Laws/Exec.lean ====
section
/-! SUPPORT. What the shared operations, exec, execute and the cycle can do, each said once. -/

namespace Sys2Proof.Machine

/-! ### The shared operations -/

/-- Completing answers OK and changes nothing else (R101). -/
theorem State.complete_eq (s : State) : s.complete = .next (s.respond .ok) := rfl

/-- Raising answers ERR, records the error and changes nothing else (R246, R247). -/
theorem State.raise_eq (s : State) (e : CoreError) : s.raise e = .next (s.recordError e) := rfl

theorem raiseUnimplemented_eq (k : Key) (s : State) :
    raiseUnimplemented k s = .next (s.recordError (.unimplemented k s.op)) := rfl

@[simp] theorem State.recordError_coreView (s : State) (e : CoreError) : (s.recordError e).coreView = s.coreView := rfl

@[simp] theorem State.respond_coreView (s : State) (r : Response) : (s.respond r).coreView = s.coreView := rfl

theorem State.recordError_respondsErr (s : State) (e : CoreError) : RespondsErr e s (s.recordError e) := ⟨rfl, rfl⟩

/-- Memory frame from the two fields reads depend on. -/
theorem sameMemory_of_eq {s t : State} (hm : t.mem = s.mem) (hc : t.config = s.config) : SameMemory s t :=
  fun p => State.getByte_congr hm hc p

theorem sameOutside_of_eq {s t : State} (hm : t.mem = s.mem) (hd : t.display = s.display)
    (hc : t.config = s.config) : SameOutside s t :=
  ⟨sameMemory_of_eq hm hc, hd, hc⟩

/-- A register operation without a flag writes V[x] and advances PC (42_register_alu.md). -/
theorem regRegOp_eq (f : Byte → Byte → Byte) (x y : Nibble) (s : State) :
    regRegOp f x y s = .next (((s.writeV x (f (s.readV x) (s.readV y))).setPC (s.pc + 2)).respond .ok) := rfl

/-- A flag operation writes V[x], then VF, and advances PC (R175). -/
theorem resultThenFlag_eq (x : Nibble) (r : Byte) (c : Bool) (s : State) :
    resultThenFlag x r c s = .next ((((s.writeV x r).setCarry c).setPC (s.pc + 2)).respond .ok) := rfl

/-- After a flag operation VF holds the flag, whatever x is (R175). -/
theorem readV_flag_after (s : State) (x : Nibble) (r : Byte) (c : Bool) :
    ((s.writeV x r).setCarry c).readV 0xF = if c then 1 else 0 :=
  State.readV_writeV_same _ _ _

/-- After a flag operation with x other than 0xF, V[x] holds the result (R173, R176, R179). -/
theorem readV_result_after (s : State) {x : Nibble} (r : Byte) (c : Bool) (h : x ≠ 0xF) :
    ((s.writeV x r).setCarry c).readV x = r := by
  rw [State.setCarry_eq, State.readV_writeV_of_ne _ _ _ _ h, State.readV_writeV_same]

/-- A flag operation leaves every register but V[x] and VF (R23). -/
theorem readV_other_after (s : State) {x r' : Nibble} (r : Byte) (c : Bool) (hx : r' ≠ x) (hf : r' ≠ 0xF) :
    ((s.writeV x r).setCarry c).readV r' = s.readV r' := by
  rw [State.setCarry_eq, State.readV_writeV_of_ne _ _ _ _ hf, State.readV_writeV_of_ne _ _ _ _ hx]

/-- The stored difference is the two's-complement difference of the bytes (R182). -/
theorem ofInt_exactDiff (a b : Byte) : BitVec.ofInt 8 (exactDiff a b) = a - b := by
  apply BitVec.eq_of_toNat_eq
  have ha := a.isLt
  have hb := b.isLt
  rw [BitVec.toNat_ofInt, BitVec.toNat_sub, exactDiff]
  omega

/-- The stored sum is the 8-bit sum of the bytes (R182). -/
theorem ofNat_exactSum (a b : Byte) : BitVec.ofNat 8 (exactSum a b) = a + b := by
  apply BitVec.eq_of_toNat_eq
  simp [exactSum]

/-! ### exec -/

/-- What an instruction can do: succeed, leaving byte store, configuration, OP and the pending steps; or raise, a
placeholder its Unimplemented and a call without a free slot its StackOverflow (R137, R220). -/
theorem exec_cases (i : Instr) (s : State) :
    (∃ t, exec i s = .next t ∧ RespondsOk s t ∧ t.mem = s.mem ∧ t.config = s.config ∧ t.op = s.op ∧
      t.pending = s.pending ∧ isPlaceholder i = false) ∨
    (isPlaceholder i = true ∧ exec i s = .next (s.recordError (.unimplemented i.key s.op))) ∨
    (∃ nnn, i = .call nnn ∧ s.sp.val = 16 ∧ exec i s = .next (s.recordError (.stackOverflow s.pc nnn))) := by
  cases i
  case call nnn =>
    by_cases h : s.sp.val < 16
    · exact .inl ⟨((s.push s.pc h).setPC (addrOperand nnn)).respond .ok, dif_pos h, ⟨rfl, rfl⟩, rfl, rfl, rfl, rfl, rfl⟩
    · have h16 : s.sp.val = 16 := by have := s.sp.isLt; omega
      exact .inr (.inr ⟨nnn, rfl, h16, dif_neg h⟩)
  case seByte x nn =>
    exact .inl ⟨_, rfl, ⟨rfl, by simp⟩, by simp, by simp, by simp, by simp, rfl⟩
  case sneByte x nn =>
    exact .inl ⟨_, rfl, ⟨rfl, by simp⟩, by simp, by simp, by simp, by simp, rfl⟩
  case seReg x y =>
    exact .inl ⟨_, rfl, ⟨rfl, by simp⟩, by simp, by simp, by simp, by simp, rfl⟩
  all_goals first
    | exact .inl ⟨_, rfl, ⟨rfl, rfl⟩, rfl, rfl, rfl, rfl, rfl⟩
    | exact .inr (.inl ⟨rfl, rfl⟩)

/-- Every instruction answers a next state. -/
theorem exec_next (i : Instr) (s : State) : ∃ t, exec i s = .next t := by
  rcases exec_cases i s with ⟨t, h, -⟩ | ⟨-, h⟩ | ⟨nnn, -, -, h⟩
  · exact ⟨t, h⟩
  · exact ⟨_, h⟩
  · exact ⟨_, h⟩

/-! ### execute (R103) -/

/-- A handler key names an implemented instruction, with that key. -/
theorem instrOfKey_of_handler {cfg : Config} {k : Key} (op : Word) (h : tableAt cfg k = .handler) :
    ∃ i, instrOfKey k op = some i ∧ i.key = k ∧ isPlaceholder i = false := by
  have hk := handler_key_cases h
  simp only [List.mem_cons, List.not_mem_nil, or_false] at hk
  rcases hk with h | h | h | h | h | h | h | h | h | h | h | h | h | h | h | h | h | h <;> subst h <;>
    exact ⟨_, rfl, rfl, rfl⟩

/-- A key that is bound to UNIMPL and names a row of the table names a placeholder. -/
theorem isPlaceholder_of_unimpl {cfg : Config} {k : Key} {op : Word} {i : Instr} (h : tableAt cfg k = .unimpl)
    (hi : instrOfKey k op = some i) : isPlaceholder i = true := by
  have hk := instrOfKey_key hi
  have hn := ((tableAt_unimpl_iff cfg k).1 h).1
  subst hk
  cases i <;> first | rfl | exact absurd rfl hn

theorem State.execute_absent {s : State} {k : Key} (h : tableAt s.config k = .absent) :
    s.execute k = .next (s.recordError (.dispatchKeyNotFound k)) := by
  simp only [State.execute, h]
  rfl

theorem State.execute_unimpl {s : State} {k : Key} (h : tableAt s.config k = .unimpl) :
    s.execute k = .next (s.recordError (.unimplemented k s.op)) := by
  simp only [State.execute, h]
  cases hi : instrOfKey k s.op with
  | none => rfl
  | some i =>
    have hp := isPlaceholder_of_unimpl h hi
    rcases exec_cases i s with ⟨t, -, -, -, -, -, -, hn⟩ | ⟨-, he⟩ | ⟨nnn, hc, -, -⟩
    · rw [hp] at hn; cases hn
    · simpa [instrOfKey_key hi] using he
    · subst hc; cases hp

/-- A present key that names a row runs that row's instruction with the fields of OP (R72). -/
theorem State.execute_instr {s : State} {k : Key} {i : Instr} (h : tableAt s.config k ≠ .absent)
    (hi : instrOfKey k s.op = some i) : s.execute k = exec i s := by
  unfold State.execute
  split
  · exact absurd ‹_› h
  all_goals simp only [hi]

/-- What execute can do: the same as an instruction, or DispatchKeyNotFound on an absent key. -/
theorem State.execute_cases (s : State) (k : Key) :
    (∃ i, tableAt s.config k = .handler ∧ instrOfKey k s.op = some i ∧ s.execute k = exec i s) ∨
    (tableAt s.config k = .unimpl ∧ s.execute k = .next (s.recordError (.unimplemented k s.op))) ∨
    (tableAt s.config k = .absent ∧ s.execute k = .next (s.recordError (.dispatchKeyNotFound k))) := by
  cases h : tableAt s.config k with
  | handler =>
    obtain ⟨i, hi, -, -⟩ := instrOfKey_of_handler s.op h
    exact .inl ⟨i, rfl, hi, State.execute_instr (by simp [h]) hi⟩
  | unimpl => exact .inr (.inl ⟨rfl, State.execute_unimpl h⟩)
  | absent => exact .inr (.inr ⟨rfl, State.execute_absent h⟩)

/-! ### The cycle (R105) -/

/-- What a CYCLE can do, stage by stage. -/
theorem State.cycle_cases (s : State) :
    (∃ e, s.fetch s.pcPosition = .error e ∧ s.cycle = .next (s.recordError e)) ∨
    (∃ w, s.fetch s.pcPosition = .ok w ∧ decodeKey s.config w = none ∧
      s.cycle = .next ((s.setOP w).recordError (.unknownOpcode w))) ∨
    (∃ w k, s.fetch s.pcPosition = .ok w ∧ decodeKey s.config w = some k ∧ tableAt s.config k ≠ .absent ∧
      s.cycle = (s.setOP w).execute k) := by
  cases hf : s.fetch s.pcPosition with
  | error e => exact .inl ⟨e, rfl, by simp [State.cycle, hf, State.raise]⟩
  | ok w =>
    cases hd : decodeKey s.config w with
    | none => exact .inr (.inl ⟨w, rfl, hd, by simp [State.cycle, hf, State.runWord, hd, State.raise]⟩)
    | some k =>
      exact .inr (.inr ⟨w, k, rfl, hd, decodeKey_present hd, by simp [State.cycle, hf, State.runWord, hd]⟩)

theorem State.cycle_of_fetch {s : State} {w : Word} (hf : s.fetch s.pcPosition = .ok w) :
    s.cycle = s.runWord w := by
  simp [State.cycle, hf]

/-! ### The next system step (R112) -/

theorem step_of_no_pending {s : State} (h : s.pending = []) : step s = s.cycle := by
  simp [step, State.runNext, h]

theorem step_of_pending {s : State} {e : SysStep} {rest : List SysStep} (h : s.pending = e :: rest) :
    step s = ({ s with pending := rest } : State).runSysStep e := by
  simp [step, State.runNext, State.dropHead, h]

/-- With nothing pending there is no head to take off. -/
theorem State.dropHead_of_no_pending {s : State} (h : s.pending = []) : s.dropHead = s := by
  cases s
  cases h
  rfl

/-- A step that is a CYCLE, the host's command or the run loop's, is runCycle with the command taken off (R105, R113). -/
theorem step_of_cycleNext {s : State} (h : s.CycleNext) : step s = s.dropHead.cycle := by
  rcases h with h | ⟨rest, h⟩
  · rw [step_of_no_pending h, State.dropHead_of_no_pending h]
  · simp [step, State.runNext, State.runSysStep, State.runCommand, h]

theorem State.fetch_dropHead (s : State) (a : Int) : s.dropHead.fetch a = s.fetch a := State.fetch_congr rfl rfl a

theorem State.coreView_dropHead (s : State) : s.dropHead.coreView = s.coreView := rfl

theorem State.readV_dropHead (s : State) (r : Nibble) : s.dropHead.readV r = s.readV r := rfl

theorem State.pcPosition_dropHead (s : State) : s.dropHead.pcPosition = s.pcPosition := rfl

/-- Dropping the first pending step leaves what fetch reads. -/
theorem fetch_with_pending (s : State) (rest : List SysStep) (a : Int) :
    ({ s with pending := rest } : State).fetch a = s.fetch a :=
  State.fetch_congr rfl rfl a

end Sys2Proof.Machine
end

