-- ==== Sys2Proof/Laws/Engine.lean ====
section
/-! SUPPORT. What an instruction, a command and a step leave alone: one inversion lemma per layer, for the invariants and frames to cite. -/

namespace Sys2Proof.Machine

/-- A read after a write of the byte store (R50), as the state's own getByte sees it. -/
theorem State.getByte_after_write {s : State} (hwf : Memory.wf s.mem = true) {p : Int} (b : Byte)
    (hp : 0 ≤ p ∧ p < s.config.memSize) (q : Int) :
    ({ s with mem := writeMem s.mem p.toNat b } : State).getByte q = if q = p then some b else s.getByte q := by
  by_cases hq : 0 ≤ q ∧ q < s.config.memSize
  · rw [State.getByte_valid (by exact hq), State.getByte_valid hq]
    show some (readMem (writeMem s.mem p.toNat b) q.toNat) = _
    rw [readMem_writeMem _ _ _ hwf]
    by_cases e : q = p
    · rw [e, if_pos rfl, if_pos rfl]
    · have hne : q.toNat ≠ p.toNat := by omega
      rw [if_neg e, if_neg hne]
  · have hne : q ≠ p := fun e => hq (e ▸ hp)
    rw [State.getByte_invalid (by exact hq), State.getByte_invalid hq, if_neg hne]

/-- What an instruction leaves, and how it can record an error. -/
theorem exec_effect {i : Instr} {s t : State} (h : exec i s = .next t) :
    t.mem = s.mem ∧ t.config = s.config ∧ t.op = s.op ∧ t.pending = s.pending ∧
    (t.faultLog = s.faultLog ∨ ∃ e, t = s.recordError e ∧ ∀ k, e ≠ .dispatchKeyNotFound k) := by
  rcases exec_cases i s with ⟨u, hu, hr, hm, hc, ho, hp, -⟩ | ⟨-, hu⟩ | ⟨n, -, -, hu⟩ <;>
    rw [hu] at h <;> injection h with h <;> subst h
  · exact ⟨hm, hc, ho, hp, .inl hr.2⟩
  · exact ⟨rfl, rfl, rfl, rfl, .inr ⟨_, rfl, by simp⟩⟩
  · exact ⟨rfl, rfl, rfl, rfl, .inr ⟨_, rfl, by simp⟩⟩

/-- What execute leaves; DispatchKeyNotFound comes only from an absent key (R103, R243). -/
theorem State.execute_effect {s t : State} {k : Key} (h : s.execute k = .next t) :
    t.mem = s.mem ∧ t.config = s.config ∧ t.op = s.op ∧ t.pending = s.pending ∧
    (t.faultLog = s.faultLog ∨ ∃ e, t = s.recordError e ∧
      (tableAt s.config k ≠ .absent → ∀ k', e ≠ .dispatchKeyNotFound k')) := by
  rcases s.execute_cases k with ⟨i, -, -, he⟩ | ⟨-, he⟩ | ⟨ha, he⟩ <;> rw [he] at h
  · obtain ⟨hm, hc, ho, hp, hl⟩ := exec_effect h
    exact ⟨hm, hc, ho, hp, hl.imp id fun ⟨e, ht, hk⟩ => ⟨e, ht, fun _ => hk⟩⟩
  · injection h with h
    subst h
    exact ⟨rfl, rfl, rfl, rfl, .inr ⟨_, rfl, fun _ => by simp⟩⟩
  · injection h with h
    subst h
    exact ⟨rfl, rfl, rfl, rfl, .inr ⟨_, rfl, fun hn => absurd ha hn⟩⟩

/-- What a CYCLE leaves, and from which stage its error can come (R105, R245). -/
theorem State.cycle_effect {s t : State} (h : s.cycle = .next t) :
    t.mem = s.mem ∧ t.config = s.config ∧ t.pending = s.pending ∧
    (t.faultLog = s.faultLog ∨ ∃ e, (∀ k, e ≠ .dispatchKeyNotFound k) ∧
      ((s.fetch s.pcPosition = .error e ∧ t = s.recordError e) ∨
        ∃ w, s.fetch s.pcPosition = .ok w ∧ t = (s.setOP w).recordError e)) := by
  rcases s.cycle_cases with ⟨e, hf, hc⟩ | ⟨w, hf, hd, hc⟩ | ⟨w, k, hf, hd, hp, hc⟩ <;> rw [hc] at h
  · injection h with h
    subst h
    refine ⟨rfl, rfl, rfl, .inr ⟨e, ?_, .inl ⟨hf, rfl⟩⟩⟩
    rcases State.fetch_error hf with ⟨-, rfl⟩ | ⟨_, -, -, rfl⟩ <;> simp
  · injection h with h
    subst h
    exact ⟨rfl, rfl, rfl, .inr ⟨_, by simp, .inr ⟨w, hf, rfl⟩⟩⟩
  · obtain ⟨hm, hcfg, -, hpd, hl⟩ := State.execute_effect h
    exact ⟨hm, hcfg, hpd, hl.imp id fun ⟨e, ht, hk⟩ => ⟨e, hk hp, .inr ⟨w, hf, ht⟩⟩⟩

/-! ### What is pending does not matter to the core -/

/-- An instruction does the same whatever is pending, and leaves it pending. -/
theorem exec_pending {i : Instr} {s t : State} (r : List SysStep) (h : exec i s = .next t) :
    exec i { s with pending := r } = .next { t with pending := r } := by
  cases i
  case call nnn =>
    simp only [exec, execCall] at h ⊢
    split at h <;> rename_i hsp
    · injection h with h; subst h; exact dif_pos hsp
    · injection h with h; subst h; exact dif_neg hsp
  case seByte x nn =>
    simp only [exec, execSeByte] at h ⊢
    injection h with h; subst h
    show Host.Outcome.next ((State.skipIf _ (regOperand s x == byteOperand nn)).respond .ok) = _
    cases regOperand s x == byteOperand nn <;> rfl
  case sneByte x nn =>
    simp only [exec, execSneByte] at h ⊢
    injection h with h; subst h
    show Host.Outcome.next ((State.skipIf _ (regOperand s x != byteOperand nn)).respond .ok) = _
    cases regOperand s x != byteOperand nn <;> rfl
  case seReg x y =>
    simp only [exec, execSeReg] at h ⊢
    injection h with h; subst h
    show Host.Outcome.next ((State.skipIf _ (regOperand s x == regOperand s y)).respond .ok) = _
    cases regOperand s x == regOperand s y <;> rfl
  all_goals
    injection h with h
    subst h
    rfl

/-- The same for execute of a key. -/
theorem State.execute_pending {s t : State} {k : Key} (r : List SysStep) (h : s.execute k = .next t) :
    ({ s with pending := r } : State).execute k = .next { t with pending := r } := by
  rcases s.execute_cases k with ⟨i, hp, hi, he⟩ | ⟨hu, he⟩ | ⟨ha, he⟩ <;> rw [he] at h
  · rw [State.execute_instr (s := { s with pending := r }) (by simp [hp]) hi]
    exact exec_pending r h
  · injection h with h
    subst h
    exact State.execute_unimpl (s := { s with pending := r }) hu
  · injection h with h
    subst h
    exact State.execute_absent (s := { s with pending := r }) ha

/-- The same for a CYCLE. -/
theorem State.cycle_pending {s t : State} (r : List SysStep) (h : s.cycle = .next t) :
    ({ s with pending := r } : State).cycle = .next { t with pending := r } := by
  have hfetch : ({ s with pending := r } : State).fetch ({ s with pending := r } : State).pcPosition =
      s.fetch s.pcPosition := fetch_with_pending s r s.pcPosition
  rcases s.cycle_cases with ⟨e, hf, hc⟩ | ⟨w, hf, hd, hc⟩ | ⟨w, k, hf, hd, hp, hc⟩ <;> rw [hc] at h
  · injection h with h
    subst h
    simp only [State.cycle, hfetch, hf]
    rfl
  · injection h with h
    subst h
    rw [State.cycle_of_fetch (hfetch.trans hf)]
    simp only [State.runWord, hd]
    rfl
  · rw [State.cycle_of_fetch (hfetch.trans hf)]
    simp only [State.runWord, hd]
    exact State.execute_pending (s := s.setOP w) r h

/-- What a host command leaves, and what stands after an error (R101, R245). -/
theorem State.runCommand_effect {s t : State} {c : HostCommand} (h : s.runCommand c = .next t) :
    t.mem = s.mem ∧ t.config = s.config ∧ t.pending = s.pending ∧
    (t.faultLog = s.faultLog ∨ ∃ e, t = s.recordError e ∨
      (c = .cycle ∧ ∃ w, s.fetch s.pcPosition = .ok w ∧ t = (s.setOP w).recordError e)) := by
  cases c
  case reset => injection h with h; subst h; exact ⟨rfl, rfl, rfl, .inl rfl⟩
  case latch w => injection h with h; subst h; exact ⟨rfl, rfl, rfl, .inl rfl⟩
  case fetch a =>
    simp only [State.runCommand, State.fetchCommand] at h
    split at h <;> injection h with h <;> subst h
    · exact ⟨rfl, rfl, rfl, .inr ⟨_, .inl rfl⟩⟩
    · exact ⟨rfl, rfl, rfl, .inl rfl⟩
  case decode =>
    simp only [State.runCommand, State.decodeCommand] at h
    split at h <;> injection h with h <;> subst h
    · exact ⟨rfl, rfl, rfl, .inr ⟨_, .inl rfl⟩⟩
    · exact ⟨rfl, rfl, rfl, .inl rfl⟩
  case execute k =>
    obtain ⟨hm, hc, -, hp, hl⟩ := State.execute_effect h
    exact ⟨hm, hc, hp, hl.imp id fun ⟨e, ht, _⟩ => ⟨e, .inl ht⟩⟩
  case cycle =>
    obtain ⟨hm, hc, hp, hl⟩ := State.cycle_effect h
    refine ⟨hm, hc, hp, hl.imp id ?_⟩
    rintro ⟨e, -, ⟨-, ht⟩ | hw⟩
    · exact ⟨e, .inl ht⟩
    · exact ⟨e, .inr ⟨rfl, hw⟩⟩

/-- What a system step leaves: the configuration, what is pending after it, the byte store unless it is the host's
setByte, and the errors recorded so far. -/
theorem State.runSysStep_effect {s t : State} {e : SysStep} (h : s.runSysStep e = .next t) :
    t.config = s.config ∧ t.pending = s.pending ∧ ((∀ p b, e ≠ .setByte p b) → t.mem = s.mem) ∧
    (t.faultLog = s.faultLog ∨ ∃ er, RespondsErr er s t) := by
  cases e
  case command c =>
    obtain ⟨hm, hc, hp, hl⟩ := State.runCommand_effect h
    refine ⟨hc, hp, fun _ => hm, hl.imp id ?_⟩
    rintro ⟨e, rfl | ⟨-, w, -, rfl⟩⟩ <;> exact ⟨e, rfl, rfl⟩
  case getByte p =>
    simp only [State.runSysStep] at h
    split at h <;> injection h with h <;> subst h <;> exact ⟨rfl, rfl, fun _ => rfl, .inl rfl⟩
  case setByte p b =>
    simp only [State.runSysStep] at h
    split at h
    · rename_i s' hs
      obtain ⟨-, rfl⟩ := State.setByte_some hs
      injection h with h
      subst h
      exact ⟨rfl, rfl, fun hn => absurd rfl (hn p b), .inl rfl⟩
    · injection h with h
      subst h
      exact ⟨rfl, rfl, fun _ => rfl, .inl rfl⟩
  case tick => injection h with h; subst h; exact ⟨by simp, by simp, fun _ => by simp, .inl (by simp)⟩
  case readState => injection h with h; subst h; exact ⟨rfl, rfl, fun _ => rfl, .inl rfl⟩
  case clearDisplay => injection h with h; subst h; exact ⟨rfl, rfl, fun _ => rfl, .inl rfl⟩
  case setPixel x y isOn =>
    simp only [State.runSysStep] at h
    split at h
    · injection h with h; subst h; exact ⟨rfl, rfl, fun _ => rfl, .inl rfl⟩
    · cases h
  case getPixel x y =>
    simp only [State.runSysStep] at h
    split at h
    · injection h with h; subst h; exact ⟨rfl, rfl, fun _ => rfl, .inl rfl⟩
    · cases h

/-- What any step leaves: the configuration, the byte store unless the host's setByte comes next, and the errors
recorded so far. -/
theorem step_effect {s t : State} (h : step s = .next t) :
    t.config = s.config ∧ ((∀ p b rest, s.pending ≠ .setByte p b :: rest) → t.mem = s.mem) ∧
    (t.faultLog = s.faultLog ∨ ∃ e, RespondsErr e s t) := by
  cases hp : s.pending with
  | nil =>
    rw [step_of_no_pending hp] at h
    obtain ⟨hm, hc, -, hl⟩ := State.cycle_effect h
    refine ⟨hc, fun _ => hm, hl.imp id ?_⟩
    rintro ⟨e, -, ⟨-, rfl⟩ | ⟨w, -, rfl⟩⟩ <;> exact ⟨e, rfl, rfl⟩
  | cons e rest =>
    rw [step_of_pending hp] at h
    obtain ⟨hc, -, hm, hl⟩ := State.runSysStep_effect h
    exact ⟨hc, fun hn => hm fun p b he => hn p b rest (by rw [he]), hl⟩

end Sys2Proof.Machine
end

