-- ==== Sys2Proof/Laws/PerInstr.lean ====
section
/-! SUPPORT. The family OperandRoundTrip, one lemma per constructor: an instruction's own word, read under its own key, gives the instruction back with every operand. -/

namespace Sys2Proof.Laws.OperandRoundTrip

/-- The operands survive encoding: the fields of the word are the operands (R71, R73). -/
def Statement (i : Instr) : Prop := instrOfKey i.key (encode i) = some i

theorem cls : Statement .cls := rfl

theorem jp (nnn : Addr) : Statement (.jp nnn) := by simp [Statement, Instr.key, encode, instrOfKey]

theorem call (nnn : Addr) : Statement (.call nnn) := by simp [Statement, Instr.key, encode, instrOfKey]

theorem seByte (x : Nibble) (nn : Byte) : Statement (.seByte x nn) := by simp [Statement, Instr.key, encode, instrOfKey]

theorem sneByte (x : Nibble) (nn : Byte) : Statement (.sneByte x nn) := by simp [Statement, Instr.key, encode, instrOfKey]

theorem seReg (x : Nibble) (y : Nibble) : Statement (.seReg x y) := by simp [Statement, Instr.key, encode, instrOfKey]

theorem ldByte (x : Nibble) (nn : Byte) : Statement (.ldByte x nn) := by simp [Statement, Instr.key, encode, instrOfKey]

theorem addByte (x : Nibble) (nn : Byte) : Statement (.addByte x nn) := by simp [Statement, Instr.key, encode, instrOfKey]

theorem ldReg (x : Nibble) (y : Nibble) : Statement (.ldReg x y) := by simp [Statement, Instr.key, encode, instrOfKey]

theorem orReg (x : Nibble) (y : Nibble) : Statement (.orReg x y) := by simp [Statement, Instr.key, encode, instrOfKey]

theorem andReg (x : Nibble) (y : Nibble) : Statement (.andReg x y) := by simp [Statement, Instr.key, encode, instrOfKey]

theorem xorReg (x : Nibble) (y : Nibble) : Statement (.xorReg x y) := by simp [Statement, Instr.key, encode, instrOfKey]

theorem addReg (x : Nibble) (y : Nibble) : Statement (.addReg x y) := by simp [Statement, Instr.key, encode, instrOfKey]

theorem subReg (x : Nibble) (y : Nibble) : Statement (.subReg x y) := by simp [Statement, Instr.key, encode, instrOfKey]

theorem subnReg (x : Nibble) (y : Nibble) : Statement (.subnReg x y) := by simp [Statement, Instr.key, encode, instrOfKey]

theorem ldI (nnn : Addr) : Statement (.ldI nnn) := by simp [Statement, Instr.key, encode, instrOfKey]

theorem ldDT (x : Nibble) : Statement (.ldDT x) := by simp [Statement, Instr.key, encode, instrOfKey]

theorem ldST (x : Nibble) : Statement (.ldST x) := by simp [Statement, Instr.key, encode, instrOfKey]

theorem ret : Statement .ret := rfl

theorem shr (x : Nibble) (y : Nibble) : Statement (.shr x y) := by simp [Statement, Instr.key, encode, instrOfKey]

theorem shl (x : Nibble) (y : Nibble) : Statement (.shl x y) := by simp [Statement, Instr.key, encode, instrOfKey]

theorem sneReg (x : Nibble) (y : Nibble) : Statement (.sneReg x y) := by simp [Statement, Instr.key, encode, instrOfKey]

theorem jpV0 (nnn : Addr) : Statement (.jpV0 nnn) := by simp [Statement, Instr.key, encode, instrOfKey]

theorem rnd (x : Nibble) (nn : Byte) : Statement (.rnd x nn) := by simp [Statement, Instr.key, encode, instrOfKey]

theorem drw (x : Nibble) (y : Nibble) (n : Nibble) : Statement (.drw x y n) := by simp [Statement, Instr.key, encode, instrOfKey]

theorem skp (x : Nibble) : Statement (.skp x) := by simp [Statement, Instr.key, encode, instrOfKey]

theorem sknp (x : Nibble) : Statement (.sknp x) := by simp [Statement, Instr.key, encode, instrOfKey]

theorem ldVxDT (x : Nibble) : Statement (.ldVxDT x) := by simp [Statement, Instr.key, encode, instrOfKey]

theorem ldVxK (x : Nibble) : Statement (.ldVxK x) := by simp [Statement, Instr.key, encode, instrOfKey]

theorem addI (x : Nibble) : Statement (.addI x) := by simp [Statement, Instr.key, encode, instrOfKey]

theorem ldF (x : Nibble) : Statement (.ldF x) := by simp [Statement, Instr.key, encode, instrOfKey]

theorem ldB (x : Nibble) : Statement (.ldB x) := by simp [Statement, Instr.key, encode, instrOfKey]

theorem storeRegs (x : Nibble) : Statement (.storeRegs x) := by simp [Statement, Instr.key, encode, instrOfKey]

theorem loadRegs (x : Nibble) : Statement (.loadRegs x) := by simp [Statement, Instr.key, encode, instrOfKey]

end Sys2Proof.Laws.OperandRoundTrip
end

