-- ==== Sys2Proof/Tests/Slice0.lean ====
section
/-! SUPPORT. Small tests of one step each, expected results from 95_test_vectors.md or worked out from the rules, and the witnesses of the statements' hypotheses. -/

namespace Sys2Proof.Tests

open Sys2Proof.Machine

/-! ### Helpers -/

/-- The next state, where there is one. -/
def nextOf (o : StepResult) : Option State :=
  match o with
  | .next s => some s
  | .fault _ => none
  | .refused _ => none

/-- A CYCLE of the word placed at PC. -/
def cycled (s : State) (w : Nat) : Option State := nextOf (step (s.withFetchWord 16 w))

/-- EXECUTE(k) with OP = w. -/
def executed (s : State) (k w : Word) : Option State :=
  nextOf (step { s with op := w, pending := [.command (.execute k)] })

/-- Reset with two registers set. -/
def withV (i : Nibble) (a : Byte) (j : Nibble) (b : Byte) : State := (State.reset.writeV i a).writeV j b

/-- Reset with a system step pending. -/
def withStep (e : SysStep) : State := { State.reset with pending := [e] }

/-- Reset with all sixteen stack slots in use. -/
def fullStack : State := { State.reset with sp := 16 }

/-- Reset with PC just past the top of the byte store. -/
def pastTop : State := { State.reset with pc := 0x1000 }

/-- Reset with the word 0x1200, a JP to 0x200, at PC. -/
def selfJump : State := State.reset.withFetchWord 16 0x1200

/-- A state whose next CYCLE is a pending host command, with a second one behind it. -/
def commanded (s : State) : State := { s with pending := [.command .cycle, .command .cycle] }

/-- Reset under the alternative decode order. -/
def specific : State := { State.reset with config := Config.specificFirst }

/-- Reset with some display cells on. -/
def litDisplay : State := { State.reset with display := [0, 65, 2047] }

/-! ### Well-formedness: an ill-formed term for each check, refused -/

theorem test_wellFormed_normative : Config.normative.wellFormed = true ∧ Config.specificFirst.wellFormed = true := by
  decide

/-- R79: 0x0000 may not be a placeholder key. -/
theorem test_wellFormed_refuses_key_0000 :
    placeholdersAllowed { Config.normative with placeholderKeys := [0x0000] } = false := by decide

/-- R79: 0xF005 hides FX15 under the mask 0xF00F. -/
theorem test_wellFormed_refuses_key_F005 :
    Config.wellFormed { Config.normative with placeholderKeys := [0xF005] } = false := by decide

/-- R77: a key has one entry; 0x6000 is implemented. -/
theorem test_wellFormed_refuses_implemented_key :
    placeholdersDisjoint { Config.normative with placeholderKeys := [0x6000] } = false := by decide

/-- R77: an instruction whose key is not in the table is ill formed. -/
theorem test_wellFormed_refuses_absent_instr :
    Instr.wellFormed { Config.normative with placeholderKeys := [] } (.drw 1 2 3) = false ∧
    Instr.wellFormed Config.normative (.drw 1 2 3) = true := by decide

/-! ### Decoding and encoding: each word written bit by bit from the row's encoding in opcode_table.json -/

theorem test_decode_control :
    decode Config.normative 0b0000_0000_1110_0000 = .ok .cls ∧
    decode Config.normative 0b0000_0101_1110_0000 = .ok .cls ∧
    decode Config.normative 0b0001_0010_0011_0100 = .ok (.jp 0b0010_0011_0100) ∧
    decode Config.normative 0b0010_0011_0000_0001 = .ok (.call 0b0011_0000_0001) ∧
    decode Config.normative 0b0011_0100_0101_0110 = .ok (.seByte 0b0100 0b0101_0110) ∧
    decode Config.normative 0b0100_0100_0101_0110 = .ok (.sneByte 0b0100 0b0101_0110) ∧
    decode Config.normative 0b0101_1010_1011_0000 = .ok (.seReg 0b1010 0b1011) ∧
    decode Config.normative 0b0101_1010_1011_0111 = .ok (.seReg 0b1010 0b1011) := by decide

theorem test_decode_load_and_copy :
    decode Config.normative 0b0110_1010_0001_0010 = .ok (.ldByte 0b1010 0b0001_0010) ∧
    decode Config.normative 0b0111_0011_1111_1110 = .ok (.addByte 0b0011 0b1111_1110) ∧
    decode Config.normative 0b1000_0010_0001_0000 = .ok (.ldReg 0b0010 0b0001) ∧
    decode Config.normative 0b1000_0010_0001_0100 = .ok (.ldReg 0b0010 0b0001) ∧
    decode Config.specificFirst 0b1000_0010_0001_1001 = .ok (.ldReg 0b0010 0b0001) := by decide

theorem test_decode_alu_specific_first :
    decode Config.specificFirst 0b1000_0010_0001_0001 = .ok (.orReg 0b0010 0b0001) ∧
    decode Config.specificFirst 0b1000_0010_0001_0010 = .ok (.andReg 0b0010 0b0001) ∧
    decode Config.specificFirst 0b1000_0010_0001_0011 = .ok (.xorReg 0b0010 0b0001) ∧
    decode Config.specificFirst 0b1000_0010_0001_0100 = .ok (.addReg 0b0010 0b0001) ∧
    decode Config.specificFirst 0b1000_0010_0001_0101 = .ok (.subReg 0b0010 0b0001) ∧
    decode Config.specificFirst 0b1000_0010_0001_0111 = .ok (.subnReg 0b0010 0b0001) ∧
    decode Config.specificFirst 0b1000_0010_0001_0110 = .ok (.shr 0b0010 0b0001) ∧
    decode Config.specificFirst 0b1000_0010_0001_1110 = .ok (.shl 0b0010 0b0001) := by decide

theorem test_decode_index_and_timers :
    decode Config.normative 0b1010_0010_1111_0000 = .ok (.ldI 0b0010_1111_0000) ∧
    decode Config.normative 0b1111_1010_0001_0101 = .ok (.ldDT 0b1010) ∧
    decode Config.normative 0b1111_1011_0001_1000 = .ok (.ldST 0b1011) := by decide

theorem test_decode_placeholders :
    decode Config.normative 0b0000_0000_1110_1110 = .ok .ret ∧
    decode Config.normative 0b1001_0001_0010_0000 = .ok (.sneReg 0b0001 0b0010) ∧
    decode Config.normative 0b1011_0001_0010_0011 = .ok (.jpV0 0b0001_0010_0011) ∧
    decode Config.normative 0b1100_0001_1111_1110 = .ok (.rnd 0b0001 0b1111_1110) ∧
    decode Config.normative 0b1101_0001_0010_0011 = .ok (.drw 0b0001 0b0010 0b0011) ∧
    decode Config.normative 0b1110_0001_1001_1110 = .ok (.skp 0b0001) ∧
    decode Config.normative 0b1110_0001_1010_0001 = .ok (.sknp 0b0001) := by decide

theorem test_decode_placeholders_F :
    decode Config.normative 0b1111_0001_0000_0111 = .ok (.ldVxDT 0b0001) ∧
    decode Config.normative 0b1111_0001_0001_0111 = .ok (.ldVxDT 0b0001) ∧
    decode Config.normative 0b1111_0001_0000_1010 = .ok (.ldVxK 0b0001) ∧
    decode Config.normative 0b1111_0001_0001_1110 = .ok (.addI 0b0001) ∧
    decode Config.normative 0b1111_0001_0010_1001 = .ok (.ldF 0b0001) ∧
    decode Config.normative 0b1111_0001_0011_0011 = .ok (.ldB 0b0001) ∧
    decode Config.normative 0b1111_0001_0101_0101 = .ok (.storeRegs 0b0001) ∧
    decode Config.normative 0b1111_0001_0110_0101 = .ok (.loadRegs 0b0001) := by decide

/-- The illegal words of 95_test_vectors.md section 2.2. -/
theorem test_decode_illegal :
    decode Config.normative 0x0000 = .error (.unknownOpcode 0x0000) ∧
    decode Config.normative 0x0123 = .error (.unknownOpcode 0x0123) ∧
    decode Config.normative 0xE1A2 = .error (.unknownOpcode 0xE1A2) ∧
    decode Config.normative 0xF116 = .error (.unknownOpcode 0xF116) ∧
    decode Config.normative 0xFFFF = .error (.unknownOpcode 0xFFFF) ∧
    decodeBytes Config.normative [0x12] = .error .truncated := by decide

/-- The words of R87 for six of the formats. -/
theorem test_encode_words :
    encode .cls = 0x00E0 ∧ encode (.jp 0x234) = 0x1234 ∧ encode (.ldByte 0xA 0x12) = 0x6A12 ∧
    encode (.subnReg 0x1 0x0) = 0x8107 ∧ encode (.ldDT 0xA) = 0xFA15 ∧ encode (.drw 0x1 0x2 0x3) = 0xD123 := by decide

/-- Two operand words of the table, and one whose row the normative decode reads as LD Vx, Vy (R81). -/
theorem test_decodeTableWord :
    decodeTableWord 16 0xFB18 = some (.ldST 0xB) ∧ decodeTableWord 16 0x8017 = some (.ldReg 0x0 0x1) ∧
    decodeTableWord 16 0xFFFF = none := by decide

/-! ### Fetch, byte store, display, host commands -/

/-- S2 of 95_test_vectors.md: FETCH(0x201) = 0x1234, an odd position. -/
theorem test_fetch_odd :
    (nextOf (step { State.reset with mem := [(0x201, 0x12), (0x202, 0x34)], pending := [.command (.fetch 0x201)] })).map
      (fun t => (t.response, t.op, t.pc)) = some (.word 0x1234, 0x0000, 0x0200) := by decide

/-- 95_test_vectors.md section 2.1: FETCH(0xFFF) and FETCH(0x1000) both report 0x1000. -/
theorem test_fetch_out_of_range :
    State.reset.fetch 0xFFF = .error (.outOfRange 0x1000) ∧ State.reset.fetch 0x1000 = .error (.outOfRange 0x1000) := by
  exact ⟨rfl, rfl⟩

/-- S1: setByte(0x300, 0x5A) then getByte(0x300); getByte(4096) fails. -/
theorem test_byte_store :
    (State.reset.setByte 0x300 0x5A).bind (fun t => t.getByte 0x300) = some 0x5A ∧
    State.reset.getByte 4096 = none ∧ State.reset.getByte (-1) = none := by decide

/-- Scenario A (S8), its EXECUTE step: I = 0x02F0 and PC = 0x202. -/
theorem test_execute_ldI :
    (executed State.reset 0xA000 0xA2F0).map (fun t => (t.ireg, t.pc, t.response)) = some (0x02F0, 0x0202, .ok) := by
  decide

/-- S11: LATCH(0xFFFF) then DECODE gives UnknownOpcode(0xFFFF). -/
theorem test_decode_command :
    (nextOf (step { State.reset with op := 0xFFFF, pending := [.command .decode] })).map (fun t => t.response) =
      some (.err (.unknownOpcode 0xFFFF)) := by decide

/-- 95_test_vectors.md section 2.3: EXECUTE(0x8009) and EXECUTE(0x8006) with OP = 0x8126. -/
theorem test_execute_absent_and_unimpl :
    (executed State.reset 0x8009 0x8126).map (fun t => t.response) = some (.err (.dispatchKeyNotFound 0x8009)) ∧
    (executed State.reset 0x8006 0x8126).map (fun t => t.response) = some (.err (.unimplemented 0x8006 0x8126)) := by
  decide

/-- 95_test_vectors.md section 2.3: the handler reads x and y from OP, not from the key. -/
theorem test_execute_fields_from_OP :
    (executed (withV 2 0x01 3 0x02) 0x8004 0x1234).map (fun t => (t.readV 2, t.readV 0xF, t.pc)) =
      some (0x03, 0x00, 0x0202) := by decide

/-- V-tick: DT = 2, ST = 0 become 1 and 0. -/
theorem test_tick :
    (nextOf (step { withStep .tick with dt := 0x02 })).map (fun t => (t.dt, t.st)) = some (0x01, 0x00) := by decide

/-- A RESET after an error restores PC and keeps the fault log (R247, R282). -/
theorem test_reset_command :
    (nextOf (step { withStep (.command .reset) with pc := 0x345, sp := 3, faultLog := [.unknownOpcode 0] })).map
      (fun t => (t.pc, t.sp, t.faultLog)) = some (0x0200, 0, [.unknownOpcode 0]) := by decide

/-- A pixel set at (1, 1) of a display 64 wide is cell 65, and (64, 0) is outside (R59, D24). -/
theorem test_pixels :
    (nextOf (step (withStep (.setPixel 1 1 true)))).map (fun t => t.display) = some [65] ∧
    (nextOf (step (withStep (.setPixel 64 0 true)))).isNone = true := by decide

/-! ### Screen clear and control flow (95_test_vectors.md section 2.4) -/

/-- V-00E0 and V-00E0b. -/
theorem test_cls :
    (cycled litDisplay 0x00E0).map (fun t => (t.display, t.pc)) = some ([], 0x0202) ∧
    (cycled litDisplay 0x0AE0).map (fun t => (t.display, t.pc)) = some ([], 0x0202) := by decide

/-- V-1NNN and V-1NNNodd. -/
theorem test_jp :
    (cycled State.reset 0x1234).map (fun t => t.pc) = some 0x0234 ∧
    (cycled State.reset 0x1201).map (fun t => t.pc) = some 0x0201 := by decide

/-- V-2NNN. -/
theorem test_call :
    (cycled { State.reset with pc := 0x208 } 0x2300).map (fun t => (t.stack[0], t.sp, t.pc)) =
      some (0x0208, 1, 0x0300) := by decide

/-- V-2NNNover. -/
theorem test_call_overflow :
    (cycled { fullStack with pc := 0x500 } 0x2600).map (fun t => (t.response, t.sp, t.pc, t.op)) =
      some (.err (.stackOverflow 0x500 0x600), 16, 0x0500, 0x2600) := by decide

/-- V-3XNN and V-3XNNn. -/
theorem test_seByte :
    (cycled (withV 4 0x56 0 0) 0x3456).map (fun t => t.pc) = some 0x0204 ∧
    (cycled (withV 4 0x57 0 0) 0x3456).map (fun t => t.pc) = some 0x0202 := by decide

/-- V-4XNN and V-4XNNn. -/
theorem test_sneByte :
    (cycled (withV 4 0x57 0 0) 0x4456).map (fun t => t.pc) = some 0x0204 ∧
    (cycled (withV 4 0x56 0 0) 0x4456).map (fun t => t.pc) = some 0x0202 := by decide

/-- V-5XY0n and V-5XY0nib. -/
theorem test_seReg :
    (cycled (withV 0xA 0x12 0xB 0x13) 0x5AB0).map (fun t => t.pc) = some 0x0202 ∧
    (cycled State.reset 0x5AB7).map (fun t => t.pc) = some 0x0204 := by decide

/-! ### Register load and ALU (95_test_vectors.md section 2.5) -/

/-- V-6XNN. -/
theorem test_ldByte :
    (cycled State.reset 0x6A12).map (fun t => (t.readV 0xA, t.pc)) = some (0x12, 0x0202) := by decide

/-- V-7XNN, with VF = 1 before, and V-7XNNf. -/
theorem test_addByte :
    (cycled (withV 0 0xFF 0xF 0x01) 0x7001).map (fun t => (t.readV 0, t.readV 0xF)) = some (0x00, 0x01) ∧
    (cycled (withV 0xF 0xFE 0 0) 0x7F03).map (fun t => t.readV 0xF) = some 0x01 := by decide

/-- V-8XY0alias: 0x8014 through CYCLE copies V1 to V0. -/
theorem test_ldReg :
    (cycled (withV 0 0xC8 1 0x64) 0x8014).map (fun t => (t.readV 0, t.readV 0xF)) = some (0x64, 0x00) := by decide

/-- V-8XY1. -/
theorem test_orReg :
    (executed ((withV 0 0xF0 1 0x0F).writeV 0xF 0x01) 0x8001 0x8011).map (fun t => (t.readV 0, t.readV 0xF)) =
      some (0xFF, 0x01) := by decide

/-- V-8XY2. -/
theorem test_andReg : (executed (withV 0 0xF0 1 0x3C) 0x8002 0x8012).map (fun t => t.readV 0) = some 0x30 := by decide

/-- V-8XY3same. -/
theorem test_xorReg : (executed (withV 5 0x77 0 0) 0x8003 0x8553).map (fun t => t.readV 5) = some 0x00 := by decide

/-- V-8XY4edge and V-8XY4xf. -/
theorem test_addReg :
    (executed (withV 0 0x80 1 0x80) 0x8004 0x8014).map (fun t => (t.readV 0, t.readV 0xF)) = some (0x00, 0x01) ∧
    (executed (withV 0xF 0x80 1 0x90) 0x8004 0x8F14).map (fun t => t.readV 0xF) = some 0x01 := by decide

/-- P3 under SPECIFIC_FIRST: 0x8014 through CYCLE adds. -/
theorem test_addReg_specific_first :
    (cycled { withV 0 0xC8 1 0x64 with config := Config.specificFirst } 0x8014).map
      (fun t => (t.readV 0, t.readV 0xF)) = some (0x2C, 0x01) := by decide

/-- V-8XY5eq under both flag rules. -/
theorem test_subReg :
    (executed (withV 0 0x42 1 0x42) 0x8005 0x8015).map (fun t => (t.readV 0, t.readV 0xF)) = some (0x00, 0x00) ∧
    (executed { withV 0 0x42 1 0x42 with config := { Config.normative with subFlagRule := .noBorrow } } 0x8005
      0x8015).map (fun t => (t.readV 0, t.readV 0xF)) = some (0x00, 0x01) := by decide

/-- V-8XY5yf. -/
theorem test_subReg_yF :
    (executed (withV 0 0x05 0xF 0x07) 0x8005 0x80F5).map (fun t => (t.readV 0, t.readV 0xF)) = some (0xFE, 0x00) := by
  decide

/-- V-8XY7 and V-8XY7lt. -/
theorem test_subnReg :
    (executed (withV 0 0x01 1 0x10) 0x8007 0x8017).map (fun t => (t.readV 0, t.readV 0xF)) = some (0x0F, 0x01) ∧
    (executed (withV 0 0x10 1 0x01) 0x8007 0x8017).map (fun t => (t.readV 0, t.readV 0xF)) = some (0xF1, 0x00) := by
  decide

/-! ### Index, timers, placeholders, errors of the cycle -/

/-- V-ANNNmax. -/
theorem test_ldI : (cycled State.reset 0xAFFF).map (fun t => (t.ireg, t.pc)) = some (0x0FFF, 0x0202) := by decide

/-- V-FX15. -/
theorem test_ldDT : (cycled (withV 0xA 0x12 0 0) 0xFA15).map (fun t => (t.dt, t.st)) = some (0x12, 0x00) := by decide

/-- V-FX18. -/
theorem test_ldST : (cycled (withV 0xB 0x12 0 0) 0xFB18).map (fun t => (t.dt, t.st)) = some (0x00, 0x12) := by decide

/-- 95_test_vectors.md section 2.3: D1 23 through CYCLE. -/
theorem test_placeholder :
    (cycled State.reset 0xD123).map (fun t => (t.response, t.pc, t.op)) =
      some (.err (.unimplemented 0xD000 0xD123), 0x0200, 0xD123) := by decide

/-- 95_test_vectors.md section 2.1: CYCLE at PC = 0x1000 leaves PC and OP. -/
theorem test_cycle_past_top :
    (nextOf (step { pastTop with op := 0x6001 })).map (fun t => (t.response, t.pc, t.op)) =
      some (.err (.outOfRange 0x1000), 0x1000, 0x6001) := by decide

/-- 95_test_vectors.md section 2.3: 00 00 through CYCLE. -/
theorem test_unknown_opcode :
    (cycled State.reset 0x0000).map (fun t => (t.faultLog, t.pc, t.op)) =
      some ([.unknownOpcode 0x0000], 0x0200, 0x0000) := by decide

/-- The boot sequence of R283 for a two-byte image. -/
theorem test_bootSteps :
    bootSteps [0x12, 0x34] = [.setByte 0x200 0x12, .setByte 0x201 0x34, .command .reset] := by decide

/-! ### Witnesses: a state and operands that meet each statement's hypotheses together -/

theorem witness_PlaceholderConstraintIsChecked :
    (0x8001, maskM8) ∈ implementedKeys ∧ 0x8AB1#16 &&& maskM8 = 0x8001 ∧ maskM4 ∈ masksBefore .narrowFirst maskM8 ∧
    0x0000#16 ∈ [0x0000#16] := by decide

theorem witness_HandlersReachedWhateverPlaceholders :
    Config.normative.decodeOrder = .narrowFirst ∧
    Config.wellFormed { Config.normative with placeholderKeys := [] } = true ∧
    decodeKey Config.normative 0xFA15 = some 0xF015 ∧ tableAt Config.normative 0xF015 = .handler := by decide

theorem witness_FetchIsBigEndian :
    State.fetch { State.reset with mem := [(0x10, 0xA2), (0x11, 0xF0)] } 0x10 = .ok 0xA2F0 ∧
    State.getByte { State.reset with mem := [(0x10, 0xA2), (0x11, 0xF0)] } 0x10 = some 0xA2 ∧
    State.getByte { State.reset with mem := [(0x10, 0xA2), (0x11, 0xF0)] } 0x11 = some 0xF0 := by
  exact ⟨rfl, rfl, rfl⟩

theorem witness_FetchNeedsNoAlignment :
    (0 ≤ (0xFFE : Int) ∧ (0xFFE : Int) + 1 < State.reset.config.memSize) ∧
    State.reset.fetch 0xFFF = .error (.outOfRange 0x1000) := by
  exact ⟨by decide, rfl⟩

theorem witness_FetchReportsFirstBadPosition :
    ((-1 : Int) < 0) ∧ ((State.reset.config.memSize : Int) ≤ 0x1000) ∧
    (0 ≤ (0xFFF : Int) ∧ (0xFFF : Int) + 1 = State.reset.config.memSize) := by decide

theorem witness_ByteStoreContract :
    State.reset.Inv ∧ (0 ≤ (0xFFF : Int) ∧ (0xFFF : Int) < State.reset.config.memSize) ∧
    (State.reset.config.memSize : Int) ≤ 0x1000 := by decide

theorem witness_HostWritesAreFetchedAndOnlyTheyChangeMemory :
    (withStep (.setByte 0x300 0x5A)).Inv ∧ (withStep (.setByte 0x300 0x5A)).pending = [.setByte 0x300 0x5A] ∧
    (0 ≤ (0x300 : Int) ∧ (0x300 : Int) < (withStep (.setByte 0x300 0x5A)).config.memSize) ∧
    (∃ t, step State.reset = .next t) ∧ (∀ p b rest, State.reset.pending ≠ .setByte p b :: rest) :=
  ⟨by decide, rfl, by decide, ⟨_, rfl⟩, nofun⟩

theorem witness_HostReadsLeaveTheCore :
    (withStep .readState).pending = [.readState] ∧
    (withStep (.getByte 0xFFF)).pending = [.getByte 0xFFF] ∧ (withStep (.getByte 0xFFF)).getByte 0xFFF = some 0 ∧
    (withStep (.getByte 0x1000)).pending = [.getByte 0x1000] ∧ (withStep (.getByte 0x1000)).getByte 0x1000 = none ∧
    (withStep (.setByte (-1) 0)).pending = [.setByte (-1) 0] ∧
    (withStep (.setByte 0x1000 0)).pending = [.setByte 0x1000 0] ∧
    ((withStep (.setByte 0x1000 0)).config.memSize : Int) ≤ 0x1000 := by decide

theorem witness_HostDrawsOnlyOnTheDisplay :
    (withStep .clearDisplay).pending = [.clearDisplay] ∧
    (withStep (.setPixel 63 31 true)).pending = [.setPixel 63 31 true] ∧
    (withStep (.setPixel 63 31 true)).InDisplay 63 31 ∧ (withStep (.setPixel 63 31 true)).InDisplay 0 0 ∧
    (withStep (.getPixel 63 0)).pending = [.getPixel 63 0] ∧ (withStep (.getPixel 63 0)).InDisplay 63 0 := by decide

/-- A pending CYCLE command runs the word at PC and leaves the command behind it pending (R101, R105, R133). -/
theorem test_cycle_command :
    (nextOf (step (commanded (State.reset.withFetchWord 16 0x1234)))).map (fun t => (t.pc, t.op, t.pending)) =
      some (0x0234, 0x1234, [.command .cycle]) := by decide

theorem witness_StepRunsDecodedInstruction :
    selfJump.CycleNext ∧ (commanded selfJump).CycleNext ∧
    selfJump.fetch selfJump.pcPosition = .ok 0x1200 ∧
    (commanded selfJump).fetch (commanded selfJump).pcPosition = .ok 0x1200 ∧
    decode selfJump.config 0x1200 = .ok (.jp 0x200) :=
  ⟨.inl rfl, .inr ⟨_, rfl⟩, rfl, rfl, rfl⟩

theorem witness_CycleRunsItsFourStepsInOrder :
    ((commanded pastTop).CycleNext ∧ pastTop.CycleNext ∧ pastTop.fetch pastTop.pcPosition = .error (.outOfRange 0x1000)) ∧
    (State.reset.fetch State.reset.pcPosition = .ok 0x0000 ∧ decodeKey State.reset.config 0x0000 = none) ∧
    (selfJump.fetch selfJump.pcPosition = .ok 0x1200 ∧ decodeKey selfJump.config 0x1200 = some 0x1000) ∧
    (∃ t, step (State.reset.withFetchWord 16 0xD123) = .next t ∧
      t.faultLog ≠ (State.reset.withFetchWord 16 0xD123).faultLog) :=
  ⟨⟨.inr ⟨_, rfl⟩, .inl rfl, rfl⟩, ⟨rfl, rfl⟩, ⟨rfl, rfl⟩, ⟨_, rfl, by decide⟩⟩

theorem witness_ErrorsArePrecise :
    State.reset.CoreTransaction ∧ ∃ t, step State.reset = .next t ∧ t.faultLog ≠ State.reset.faultLog :=
  ⟨.inl rfl, ⟨_, rfl, by decide⟩⟩

theorem witness_RepeatedCycleFailsTheSameWay :
    ((commanded State.reset).CycleNext ∧ ∃ t, step (commanded State.reset) = .next t ∧
      RespondsErr (.unknownOpcode 0x0000) (commanded State.reset) t ∧ t.CycleNext) ∧
    (State.reset.CycleNext ∧ ∃ t, step State.reset = .next t ∧
      RespondsErr (.unknownOpcode 0x0000) State.reset t ∧ t.CycleNext) :=
  ⟨⟨.inr ⟨_, rfl⟩, _, rfl, ⟨rfl, rfl⟩, .inr ⟨_, rfl⟩⟩, .inl rfl, _, rfl, ⟨rfl, rfl⟩, .inl rfl⟩

theorem witness_FaultLogIsNeverCleared_and_TableNeverChanges : ∃ t, step State.reset = .next t := ⟨_, rfl⟩

theorem witness_TableNeverChanges_config :
    Config.normative.placeholderKeys = Config.specificFirst.placeholderKeys := rfl

theorem witness_DispatchKeyNotFoundOnlyFromExecute :
    tableAt State.reset.config 0x8009 = .absent ∧ State.reset.CycleNext ∧ ∃ t, step State.reset = .next t :=
  ⟨by decide, .inl rfl, ⟨_, rfl⟩⟩

theorem witness_FetchCommandWritesNothing :
    (withStep (.command (.fetch 0x10))).pending = [.command (.fetch 0x10)] ∧
    (withStep (.command (.fetch 0x10))).fetch 0x10 = .ok 0x0000 ∧
    (withStep (.command (.fetch 0xFFF))).fetch 0xFFF = .error (.outOfRange 0x1000) :=
  ⟨rfl, rfl, rfl⟩

theorem witness_LatchWritesOnlyOP :
    (withStep (.command (.latch 0xA2F0))).pending = [.command (.latch 0xA2F0)] := rfl

theorem witness_DecodeCommandWritesNothing :
    (withStep (.command .decode)).pending = [.command .decode] ∧
    decodeKey (withStep (.command .decode)).config (withStep (.command .decode)).op = none ∧
    decodeKey State.reset.config 0x6A12 = some 0x6000 :=
  ⟨rfl, by decide, by decide⟩

theorem witness_ExecuteLooksUpTheKey :
    (withStep (.command (.execute 0x8009))).pending = [.command (.execute 0x8009)] ∧
    tableAt State.reset.config 0x8009 = .absent ∧ tableAt State.reset.config 0x8006 = .unimpl ∧
    tableAt State.reset.config 0x8004 = .handler :=
  ⟨rfl, by decide, by decide, by decide⟩

theorem witness_ResetRestoresCoreState :
    (withStep (.command .reset)).pending = [.command .reset] := rfl

theorem witness_TickCountsBothTimersDown :
    (withStep .tick).pending = [.tick] ∧ (withStep .tick).config.timerTick = .saturatingDecrement := ⟨rfl, rfl⟩

theorem witness_OnlyBadDisplayAccessStops :
    step (withStep (.getPixel 64 0)) = .fault (.displayOutOfRange 64 0) ∧
    ¬ (0 ≤ (64 : Int) ∧ (64 : Int) < (withStep (.getPixel 64 0)).config.displayW ∧ 0 ≤ (0 : Int) ∧
      (0 : Int) < (withStep (.getPixel 64 0)).config.displayH) ∧
    (withStep (.getPixel 64 0)).pending = [.getPixel 64 0] :=
  ⟨rfl, by decide, rfl⟩

theorem witness_StepKeepsInv : litDisplay.Inv ∧ ∃ t, step litDisplay = .next t := ⟨by decide, ⟨_, rfl⟩⟩

theorem witness_CycleKeepsPCBelowTop :
    (commanded selfJump).CycleNext ∧ selfJump.CycleNext ∧ 4093 ≤ selfJump.config.memSize ∧ selfJump.config.memSize ≤ 4096 ∧
    selfJump.pc.toNat ≤ selfJump.config.memSize + 2 ∧ ∃ t, step selfJump = .next t :=
  ⟨.inr ⟨_, rfl⟩, .inl rfl, by decide, by decide, by decide, ⟨_, rfl⟩⟩

theorem witness_EveryInstructionSequencesPC : ∃ t, exec (.jp 0x234) State.reset = .next t := ⟨_, rfl⟩

theorem witness_EveryInstructionKeepsItsFrame :
    (∃ t, exec (.ldI 0x2F0) State.reset = .next t ∧ t.ireg ≠ State.reset.ireg) ∧
    (∃ t, exec (.ldDT 0xA) (withV 0xA 0x12 0 0) = .next t ∧ t.dt ≠ (withV 0xA 0x12 0 0).dt) ∧
    (∃ t, exec (.ldST 0xA) (withV 0xA 0x12 0 0) = .next t ∧ t.st ≠ (withV 0xA 0x12 0 0).st) ∧
    (∃ t, exec (.call 0x300) State.reset = .next t ∧ t.sp ≠ State.reset.sp) ∧
    (∃ t, exec .cls litDisplay = .next t ∧ t.display ≠ litDisplay.display) ∧
    (∃ t, exec .ret State.reset = .next t ∧ t.faultLog ≠ State.reset.faultLog) :=
  ⟨⟨_, rfl, by decide⟩, ⟨_, rfl, by decide⟩, ⟨_, rfl, by decide⟩, ⟨_, rfl, by decide⟩, ⟨_, rfl, by decide⟩,
    ⟨_, rfl, by decide⟩⟩

theorem witness_FinishedIsFixedPoint :
    (selfJump.CycleNext ∧ selfJump.config.wellFormed = true ∧ selfJump.Finished) ∧
    ((commanded selfJump).CycleNext ∧ (commanded selfJump).Finished ∧
      ∃ t, step (commanded selfJump) = .next t ∧ t.CycleNext) :=
  ⟨⟨.inl rfl, by decide, rfl, 0x1200, rfl, by decide, by decide⟩,
    .inr ⟨_, rfl⟩, ⟨rfl, 0x1200, rfl, by decide, by decide⟩, _, rfl, .inr ⟨_, rfl⟩⟩

theorem witness_NormativeCycleCopiesForEveryEightWord :
    (State.reset.withFetchWord 16 0x8014).CycleNext ∧
    (commanded (State.reset.withFetchWord 16 0x8014)).CycleNext ∧
    (State.reset.withFetchWord 16 0x8014).config.decodeOrder = .narrowFirst ∧
    (State.reset.withFetchWord 16 0x8014).fetch (State.reset.withFetchWord 16 0x8014).pcPosition = .ok 0x8014 ∧
    (0x8014 : Word).extractLsb' 12 4 = 0x8 :=
  ⟨.inl rfl, .inr ⟨_, rfl⟩, rfl, rfl, by decide⟩

theorem witness_CallPushesItsOwnAddress :
    ({ State.reset with sp := 15 } : State).sp.val < 16 ∧ (0x300 : Addr) = (0x2300 : Word).extractLsb' 0 12 := by decide

theorem witness_CallOverflowsPrecisely : fullStack.sp.val = 16 := by decide

/-- The operand hypotheses of the result statements: x, y, NN, NNN as the fields of a word in OP. -/
theorem witness_operand_fields :
    (0xA : Nibble) = (0x5AB0 : Word).extractLsb' 8 4 ∧ (0xB : Nibble) = (0x5AB0 : Word).extractLsb' 4 4 ∧
    (0xB0 : Byte) = (0x5AB0 : Word).extractLsb' 0 8 ∧ (0xAB0 : Addr) = (0x5AB0 : Word).extractLsb' 0 12 := by decide

/-- Both branches of the three skips. -/
theorem witness_skips :
    (withV 4 0x56 5 0x56).readV 4 = 0x56 ∧ (withV 4 0x57 5 0x56).readV 4 ≠ 0x56 ∧
    (withV 4 0x56 5 0x56).readV 4 = (withV 4 0x56 5 0x56).readV 5 ∧
    (withV 4 0x57 5 0x56).readV 4 ≠ (withV 4 0x57 5 0x56).readV 5 := by decide

theorem witness_ByteSkipsAreComplementary :
    (∃ t, exec (.seByte 4 0x56) State.reset = .next t) ∧ ∃ u, exec (.sneByte 4 0x56) State.reset = .next u :=
  ⟨⟨_, rfl⟩, ⟨_, rfl⟩⟩

/-- Configurations and words that meet the reachability hypotheses of 6XNN, 7XNN and 8XY0. -/
theorem witness_leading_nibbles :
    Config.normative.wellFormed = true ∧ Config.specificFirst.wellFormed = true ∧
    Config.normative.decodeOrder = .narrowFirst ∧ (0x6A12 : Word).extractLsb' 12 4 = 0x6 ∧ (0x7001 : Word).extractLsb' 12 4 = 0x7 ∧
    (0x8014 : Word).extractLsb' 12 4 = 0x8 := by decide

/-- Both values of SUB_FLAG_RULE, and x other than 0xF. -/
theorem witness_flag_statements :
    State.reset.config.subFlagRule = .positiveDiff ∧
    ({ State.reset with config := { Config.normative with subFlagRule := .noBorrow } } : State).config.subFlagRule =
      .noBorrow ∧ (0x0 : Nibble) ≠ 0xF := by decide

theorem witness_SubFlagRulesDifferOnlyOnEqual :
    (∃ p, exec (.subReg 0 1)
      { withV 0 0x42 1 0x42 with config := { (withV 0 0x42 1 0x42).config with subFlagRule := .positiveDiff } } =
        .next p) ∧
    (∃ n, exec (.subReg 0 1)
      { withV 0 0x42 1 0x42 with config := { (withV 0 0x42 1 0x42).config with subFlagRule := .noBorrow } } =
        .next n) ∧
    (withV 0 0x42 1 0x42).readV 0 = (withV 0 0x42 1 0x42).readV 1 ∧
    (withV 0 0x42 1 0x43).readV 0 ≠ (withV 0 0x42 1 0x43).readV 1 :=
  ⟨⟨_, rfl⟩, ⟨_, rfl⟩, by decide, by decide⟩

theorem witness_UnimplKeysRaiseUnimplemented :
    tableAt State.reset.config 0xD000 = .unimpl ∧ (State.reset.withFetchWord 16 0xD123).CycleNext ∧
    (commanded (State.reset.withFetchWord 16 0xD123)).CycleNext ∧
    (State.reset.withFetchWord 16 0xD123).fetch (State.reset.withFetchWord 16 0xD123).pcPosition = .ok 0xD123 ∧
    decodeKey (State.reset.withFetchWord 16 0xD123).config 0xD123 = some 0xD000 ∧
    tableAt (State.reset.withFetchWord 16 0xD123).config 0xD000 = .unimpl :=
  ⟨by decide, .inl rfl, .inr ⟨_, rfl⟩, rfl, by decide, by decide⟩

/-- A placeholder key of another configuration, which names no row of the table. -/
theorem witness_UnimplKeys_other_config :
    tableAt { Config.normative with placeholderKeys := [0x9001] } 0x9001 = .unimpl := by decide

theorem witness_PlaceholderInstructionsRaise : isPlaceholder (.drw 1 2 3) = true := rfl

end Sys2Proof.Tests
end

namespace Sys2Proof

/-- The table reads PLACEHOLDER_KEYS of its configuration and nothing else (R34, R77). -/
theorem tableAt_congr {cfg cfg' : Config} (h : cfg.placeholderKeys = cfg'.placeholderKeys) (k : Key) :
    tableAt cfg k = tableAt cfg' k := by
  simp only [tableAt, h]

end Sys2Proof

namespace Sys2Proof.Machine

/-- No step, of whichever agent, writes the configuration (R8, R34). -/
theorem step_config {s t : State} (h : step s = .next t) : t.config = s.config :=
  (step_effect h).1

/-- Settles O20: a step keeps the configuration, and the table depends on its PLACEHOLDER_KEYS alone. -/
theorem tableNeverChanges : Obligations.TableNeverChanges := by
  unfold Obligations.TableNeverChanges
  constructor
  · intro s t hstep k
    have hkeys : t.config.placeholderKeys = s.config.placeholderKeys :=
      congrArg Config.placeholderKeys (step_config hstep)
    exact tableAt_congr hkeys k
  · intro cfg cfg' hkeys k
    exact tableAt_congr hkeys k

end Sys2Proof.Machine

namespace Sys2Proof

/-- The first byte weighs 256 in the word, the second 1 (R53). -/
theorem toNat_wordOfBytes (b0 b1 : Byte) : (wordOfBytes b0 b1).toNat = b0.toNat * 256 + b1.toNat := by
  have h0 := b0.isLt
  have h1 := b1.isLt
  have hshift : (b0.setWidth 16 <<< 8).toNat = b0.toNat <<< 8 := by
    simp only [BitVec.toNat_shiftLeft, BitVec.toNat_setWidth, Nat.shiftLeft_eq]
    omega
  have hlow : (b1.setWidth 16).toNat = b1.toNat := BitVec.toNat_setWidth_of_le (by decide)
  rw [wordOfBytes, BitVec.toNat_or, hshift, hlow, ← Nat.shiftLeft_add_eq_or_of_lt h1, Nat.shiftLeft_eq]

end Sys2Proof

namespace Sys2Proof.Machine

/-- The bytes at the two fetched positions are the word's own high and low byte (R53). -/
theorem State.getByte_of_fetch {s : State} {a : Int} {w : Word} (h : s.fetch a = .ok w) :
    s.getByte a = some (highByte w) ∧ s.getByte (a + 1) = some (lowByte w) := by
  obtain ⟨b0, b1, h0, h1, rfl⟩ := State.fetch_ok h
  simp [h0, h1]

/-- Fetch answers a word exactly when both positions are valid; nothing is asked of their parity (R52, R54). -/
theorem State.fetch_isOk_iff (s : State) (a : Int) :
    (∃ w, s.fetch a = .ok w) ↔ 0 ≤ a ∧ a + 1 < s.config.memSize := by
  constructor
  · rintro ⟨w, hw⟩
    exact State.fetch_position hw
  · rintro ⟨hlo, hhi⟩
    have h0 := State.getByte_valid (s := s) (p := a) ⟨hlo, by omega⟩
    have h1 := State.getByte_valid (s := s) (p := a + 1) ⟨by omega, hhi⟩
    exact ⟨_, State.fetch_of_bytes h0 h1⟩

/-- Settles O8: the bytes of a fetched word, and the word of two readable bytes. -/
theorem fetchIsBigEndian : Obligations.FetchIsBigEndian := by
  unfold Obligations.FetchIsBigEndian
  intro s a
  constructor
  · intro w hw
    exact State.getByte_of_fetch hw
  · intro b0 b1 h0 h1
    exact ⟨wordOfBytes b0 b1, State.fetch_of_bytes h0 h1, toNat_wordOfBytes b0 b1⟩

/-- Settles O9: success needs the two valid positions alone, and either failing read reports OutOfRange. -/
theorem fetchNeedsNoAlignment : Obligations.FetchNeedsNoAlignment := by
  unfold Obligations.FetchNeedsNoAlignment
  intro s a
  refine ⟨s.fetch_isOk_iff a, fun e he => ?_⟩
  rcases State.fetch_error he with ⟨-, rfl⟩ | ⟨b0, -, -, rfl⟩
  · exact ⟨a, rfl⟩
  · exact ⟨a + 1, rfl⟩

/-- The state after a pending host setByte at a valid position: the step off the list, the byte written, OK answered. -/
def State.afterSetByte (s : State) (p : Int) (b : Byte) : State :=
  ({ s.dropHead with mem := writeMem s.mem p.toNat b } : State).respond .ok

/-- A pending host setByte at a valid position steps to the state after its write (R50, R112). -/
theorem step_of_setByte {s : State} {rest : List SysStep} {p : Int} {b : Byte}
    (hpend : s.pending = .setByte p b :: rest) (hp : 0 ≤ p ∧ p < s.config.memSize) :
    step s = .next (s.afterSetByte p b) := by
  have hwrite := State.setByte_valid (s := s.dropHead) b hp
  simp only [step, State.runNext, hpend, State.runSysStep, hwrite]
  rfl

/-- After that write the position reads the byte and every other position reads as before (R50). -/
theorem State.getByte_afterSetByte {s : State} (hwf : Memory.wf s.mem = true) {p : Int} (b : Byte)
    (hp : 0 ≤ p ∧ p < s.config.memSize) (q : Int) :
    (s.afterSetByte p b).getByte q = if q = p then some b else s.getByte q :=
  (State.getByte_congr rfl rfl q).trans (State.getByte_after_write hwf b hp q)

/-- A step that is not a host setByte keeps every byte of the store (R63). -/
theorem step_sameMemory {s t : State} (h : step s = .next t)
    (hnot : ∀ p b rest, s.pending ≠ .setByte p b :: rest) : SameMemory s t := by
  obtain ⟨hconfig, hmem, -⟩ := step_effect h
  exact sameMemory_of_eq (hmem hnot) hconfig

/-- Settles O12: a fetch reads the byte just written as its high byte at `p` and as its low byte at `p - 1`, and every
step but a host setByte keeps the byte store. -/
theorem hostWritesAreFetchedAndOnlyTheyChangeMemory :
    Obligations.HostWritesAreFetchedAndOnlyTheyChangeMemory := by
  unfold Obligations.HostWritesAreFetchedAndOnlyTheyChangeMemory
  refine ⟨?_, fun s t => step_sameMemory⟩
  intro s rest p b hinv hpend hlo hhi
  obtain ⟨hwf, -⟩ := hinv
  have hread := State.getByte_afterSetByte hwf b ⟨hlo, hhi⟩
  have hwritten : (s.afterSetByte p b).getByte p = some b := (hread p).trans (if_pos rfl)
  refine ⟨s.afterSetByte p b, step_of_setByte hpend ⟨hlo, hhi⟩, congrArg List.tail hpend, rfl, rfl, rfl, rfl, hread,
    fun w hw => ?_, fun w hw => ?_⟩
  · obtain ⟨hhigh, -⟩ := State.getByte_of_fetch hw
    exact Option.some.inj (hhigh.symm.trans hwritten)
  · obtain ⟨-, hlow⟩ := State.getByte_of_fetch hw
    rw [Int.sub_add_cancel] at hlow
    exact Option.some.inj (hlow.symm.trans hwritten)

end Sys2Proof.Machine

namespace Sys2Proof.Machine

/-! ### The dispatch cycle and its host commands (40_dispatch_cycle.md) -/

/-- A step that only takes the first pending step off and records `e` is precise (R245, R246). -/
theorem step_recordError_precise {s : State} {rest : List SysStep} {e : CoreError}
    (h : step s = .next (({ s with pending := rest } : State).recordError e)) :
    ∃ t, step s = .next t ∧ t.pending = rest ∧ t.coreView = s.coreView ∧ SameOutside s t ∧ RespondsErr e s t :=
  ⟨_, h, rfl, rfl, sameOutside_of_eq rfl rfl rfl, rfl, rfl⟩

/-- A pending EXECUTE(k) is `execute(k)` with the command taken off the list (R101, R103). -/
theorem step_of_execute {s : State} {k : Key} {rest : List SysStep} (h : s.pending = .command (.execute k) :: rest) :
    step s = ({ s with pending := rest } : State).execute k :=
  step_of_pending h

/-- Settles O25, along the three kinds of entry the table can hold for the key. -/
theorem executeLooksUpTheKey : Obligations.ExecuteLooksUpTheKey := by
  unfold Obligations.ExecuteLooksUpTheKey
  intro s k rest hpend
  refine ⟨fun habsent => ?_, fun hunimpl => ?_, fun hhandler => ?_⟩
  · exact step_recordError_precise ((step_of_execute hpend).trans (State.execute_absent habsent))
  · exact step_recordError_precise ((step_of_execute hpend).trans (State.execute_unimpl hunimpl))
  · obtain ⟨i, hi, hkey, himpl⟩ := instrOfKey_of_handler s.op hhandler
    have hpresent : tableAt s.config k ≠ .absent := by simp [hhandler]
    exact ⟨i, hi, hkey, himpl, (step_of_execute hpend).trans (State.execute_instr hpresent hi)⟩

/-- A CYCLE whose fetch fails records fetch's error (R105). -/
theorem State.cycle_of_fetch_error {s : State} {e : CoreError} (hf : s.fetch s.pcPosition = .error e) :
    s.cycle = .next (s.recordError e) := by
  simp only [State.cycle, hf, State.raise_eq]

/-- A fetched word without a key is stored in OP and reported (R85, R105). -/
theorem State.runWord_of_no_key {s : State} {w : Word} (hd : decodeKey s.config w = none) :
    s.runWord w = .next ((s.setOP w).recordError (.unknownOpcode w)) := by
  simp only [State.runWord, hd, State.raise_eq]

/-- A fetched word with a key is stored in OP and its key executed (R105). -/
theorem State.runWord_of_key {s : State} {w : Word} {k : Key} (hd : decodeKey s.config w = some k) :
    s.runWord w = (s.setOP w).execute k := by
  simp only [State.runWord, hd]

/-- A CYCLE that fetches `w` runs it on the state with the command taken off (R105). -/
theorem step_of_cycleNext_fetch {s : State} {w : Word} (h : s.CycleNext) (hf : s.fetch s.pcPosition = .ok w) :
    step s = s.dropHead.runWord w := by
  have hfetch : s.dropHead.fetch s.dropHead.pcPosition = .ok w := (s.fetch_dropHead _).trans hf
  rw [step_of_cycleNext h, State.cycle_of_fetch hfetch]

/-- An execute that adds to the fault log has done nothing but record one error (R245). -/
theorem State.execute_records {s t : State} {k : Key} (h : s.execute k = .next t) (hlog : t.faultLog ≠ s.faultLog) :
    ∃ e, t = s.recordError e := by
  obtain ⟨-, -, -, -, hsame | ⟨e, ht, -⟩⟩ := State.execute_effect h
  · exact absurd hsame hlog
  · exact ⟨e, ht⟩

/-- Settles O16, along the step of the cycle that ends it: fetch, decode, or execute. -/
theorem cycleRunsItsFourStepsInOrder : Obligations.CycleRunsItsFourStepsInOrder := by
  unfold Obligations.CycleRunsItsFourStepsInOrder
  intro s hnext
  refine ⟨fun e hf => ?_, fun w hf hd => ?_, fun w k hf hd => ?_⟩
  · have hfetch : s.dropHead.fetch s.dropHead.pcPosition = .error e := (s.fetch_dropHead _).trans hf
    exact step_recordError_precise ((step_of_cycleNext hnext).trans (State.cycle_of_fetch_error hfetch))
  · have hstep := (step_of_cycleNext_fetch hnext hf).trans (State.runWord_of_no_key hd)
    exact ⟨_, hstep, rfl, rfl, sameOutside_of_eq rfl rfl rfl, rfl, rfl⟩
  · have hstep : step s = (s.dropHead.setOP w).execute k :=
      (step_of_cycleNext_fetch hnext hf).trans (State.runWord_of_key hd)
    refine ⟨hstep, fun t ht hlog => ?_⟩
    obtain ⟨e, rfl⟩ := State.execute_records (hstep.symm.trans ht) hlog
    exact ⟨rfl, rfl, sameOutside_of_eq rfl rfl rfl⟩

/-- FETCH(a) answers the word that fetch gives (R102). -/
theorem State.fetchCommand_ok {s : State} {a : Int} {w : Word} (hf : s.fetch a = .ok w) :
    s.fetchCommand a = .next (s.respond (.word w)) := by
  simp only [State.fetchCommand, hf]

/-- FETCH(a) records the error that fetch gives (R102). -/
theorem State.fetchCommand_error {s : State} {a : Int} {e : CoreError} (hf : s.fetch a = .error e) :
    s.fetchCommand a = .next (s.recordError e) := by
  simp only [State.fetchCommand, hf, State.raise_eq]

/-- Settles O22, by what the fetch gives. -/
theorem fetchCommandWritesNothing : Obligations.FetchCommandWritesNothing := by
  unfold Obligations.FetchCommandWritesNothing
  intro s a rest hpend
  have hstep : step s = ({ s with pending := rest } : State).fetchCommand a := step_of_pending hpend
  have hfetch := fetch_with_pending s rest a
  cases hf : s.fetch a with
  | ok w =>
    refine ⟨_, hstep.trans (State.fetchCommand_ok (hfetch.trans hf)), rfl, rfl, sameOutside_of_eq rfl rfl rfl, ?_, nofun⟩
    rintro _ ⟨⟩
    exact ⟨rfl, rfl⟩
  | error e =>
    obtain ⟨t, ht, hrest, hcore, hout, herr⟩ :=
      step_recordError_precise (hstep.trans (State.fetchCommand_error (hfetch.trans hf)))
    obtain ⟨-, honlyOutOfRange⟩ := fetchNeedsNoAlignment s a
    refine ⟨t, ht, hrest, hcore, hout, nofun, ?_⟩
    rintro _ ⟨⟩
    exact ⟨herr, honlyOutOfRange e hf⟩

/-- DECODE answers the key of OP (R106). -/
theorem State.decodeCommand_of_key {s : State} {k : Key} (hd : decodeKey s.config s.op = some k) :
    s.decodeCommand = .next (s.respond (.key k)) := by
  simp only [State.decodeCommand, hd]

/-- DECODE records UnknownOpcode when OP has no key (R85, R106). -/
theorem State.decodeCommand_of_no_key {s : State} (hd : decodeKey s.config s.op = none) :
    s.decodeCommand = .next (s.recordError (.unknownOpcode s.op)) := by
  simp only [State.decodeCommand, hd, State.raise_eq]

/-- Settles O24, by whether OP has a key. -/
theorem decodeCommandWritesNothing : Obligations.DecodeCommandWritesNothing := by
  unfold Obligations.DecodeCommandWritesNothing
  intro s rest hpend
  have hstep : step s = ({ s with pending := rest } : State).decodeCommand := step_of_pending hpend
  cases hd : decodeKey s.config s.op with
  | some k =>
    refine ⟨_, hstep.trans (State.decodeCommand_of_key hd), rfl, rfl, sameOutside_of_eq rfl rfl rfl, ?_, nofun⟩
    rintro _ ⟨⟩
    exact ⟨rfl, rfl⟩
  | none =>
    obtain ⟨t, ht, hrest, hcore, hout, herr⟩ :=
      step_recordError_precise (hstep.trans (State.decodeCommand_of_no_key hd))
    exact ⟨t, ht, hrest, hcore, hout, nofun, fun _ => herr⟩

end Sys2Proof.Machine

namespace Sys2Proof.Machine

/-! ### Screen clear, jump and the conditional skips (41_screen_and_control_flow.md) -/

/-- Execute of an implemented key runs the instruction that key names, in every configuration (R77, R103). -/
theorem State.execute_implemented {s : State} {k : Key} {i : Instr}
    (hk : implementedKeys.any (fun row => row.1 == k) = true) (hi : instrOfKey k s.op = some i) :
    s.execute k = exec i s := by
  have hhandler : tableAt s.config k = .handler := (tableAt_handler_iff s.config k).2 hk
  exact State.execute_instr (by simp [hhandler]) hi

/-- The state after an instruction whose one effect is on PC: PC at `target`, and OK answered (R26, R101). -/
def State.movePC (s : State) (target : Word) : State := (s.setPC target).respond .ok

@[simp] theorem State.movePC_pc (s : State) (target : Word) : (s.movePC target).pc = target := rfl

theorem State.movePC_framePC (s : State) (target : Word) : FramePC s (s.movePC target) :=
  ⟨fun _ => rfl, rfl, ⟨rfl, rfl⟩, ⟨rfl, rfl⟩, sameMemory_of_eq rfl rfl, rfl, rfl, rfl, rfl⟩

theorem State.movePC_respondsOk (s : State) (target : Word) : RespondsOk s (s.movePC target) := ⟨rfl, rfl⟩

/-- A completed conditional skip only moves PC: by four when its condition holds, by two when not (R26, R139). -/
theorem State.skipIf_complete (s : State) {taken : Bool} {p : Prop} [Decidable p] (h : taken = true ↔ p) :
    (s.skipIf taken).complete = .next (s.movePC (if p then s.pc + 4 else s.pc + 2)) := by
  by_cases hp : p
  · rw [h.2 hp, if_pos hp]
    rfl
  · rw [Bool.eq_false_iff.2 (mt h.1 hp), if_neg hp]
    rfl

theorem exec_cls (s : State) : exec .cls s = .next (s.displayClear.movePC (s.pc + 2)) := rfl

theorem exec_jp (nnn : Addr) (s : State) : exec (.jp nnn) s = .next (s.movePC (nnn.setWidth 16)) := rfl

theorem exec_seByte (x : Nibble) (nn : Byte) (s : State) :
    exec (.seByte x nn) s = .next (s.movePC (if s.readV x = nn then s.pc + 4 else s.pc + 2)) :=
  s.skipIf_complete beq_iff_eq

theorem exec_sneByte (x : Nibble) (nn : Byte) (s : State) :
    exec (.sneByte x nn) s = .next (s.movePC (if s.readV x ≠ nn then s.pc + 4 else s.pc + 2)) :=
  s.skipIf_complete bne_iff_ne

theorem exec_seReg (x y : Nibble) (s : State) :
    exec (.seReg x y) s = .next (s.movePC (if s.readV x = s.readV y then s.pc + 4 else s.pc + 2)) :=
  s.skipIf_complete beq_iff_eq

/-- Settles O36: CLS only moves PC from the state with the display cleared, so its frame is that of the move. -/
theorem clsClearsTheDisplay : Obligations.ClsClearsTheDisplay := by
  unfold Obligations.ClsClearsTheDisplay
  intro s
  obtain ⟨hv, hindex, htimers, hstack, hmemory, -, hsetup⟩ := s.displayClear.movePC_framePC (s.pc + 2)
  exact ⟨State.execute_implemented (by decide) rfl, _, exec_cls s, rfl, s.getPixel_displayClear, rfl,
    hv, hindex, htimers, hstack, hmemory, hsetup, s.displayClear.movePC_respondsOk _⟩

/-- Settles O37: JP only moves PC, to NNN. -/
theorem jpSetsPC : Obligations.JpSetsPC := by
  unfold Obligations.JpSetsPC
  intro s nnn
  refine ⟨?_, _, exec_jp nnn s, rfl, s.movePC_framePC _, s.movePC_respondsOk _⟩
  rintro rfl
  exact State.execute_implemented (by decide) rfl

/-- Settles O40: SE only moves PC, along the two branches of its comparison. -/
theorem seByteSkipsOnEqual : Obligations.SeByteSkipsOnEqual := by
  unfold Obligations.SeByteSkipsOnEqual
  intro s x nn
  refine ⟨?_, _, exec_seByte x nn s, fun heq => if_pos heq, fun hne => if_neg hne, s.movePC_framePC _,
    s.movePC_respondsOk _⟩
  rintro rfl rfl
  exact State.execute_implemented (by decide) rfl

/-- Settles O41: SNE only moves PC, and equal operands are the branch that does not skip. -/
theorem sneByteSkipsOnUnequal : Obligations.SneByteSkipsOnUnequal := by
  unfold Obligations.SneByteSkipsOnUnequal
  intro s x nn
  refine ⟨?_, _, exec_sneByte x nn s, fun hne => if_pos hne, fun heq => if_neg (not_not.2 heq),
    s.movePC_framePC _, s.movePC_respondsOk _⟩
  rintro rfl rfl
  exact State.execute_implemented (by decide) rfl

/-- Settles O42: SE on two registers only moves PC, along the two branches of its comparison. -/
theorem seRegSkipsOnEqual : Obligations.SeRegSkipsOnEqual := by
  unfold Obligations.SeRegSkipsOnEqual
  intro s x y
  refine ⟨?_, _, exec_seReg x y s, fun heq => if_pos heq, fun hne => if_neg hne, s.movePC_framePC _,
    s.movePC_respondsOk _⟩
  rintro rfl rfl
  exact State.execute_implemented (by decide) rfl

end Sys2Proof.Machine

namespace Sys2Proof

/-! ### Which words reach an implemented key (R78, R79) -/

/-- M4 keeps no bit that M12 or M8 drops, so masking with either first loses nothing M4 keeps (R75). -/
theorem and_and_maskM4 {m : Word} (hm : m ∈ [maskM12, maskM8]) (w : Word) : (w &&& m) &&& maskM4 = w &&& maskM4 := by
  have hsub : m &&& maskM4 = maskM4 := by
    simp only [List.mem_cons, List.not_mem_nil, or_false] at hm
    rcases hm with rfl | rfl <;> rfl
  rw [BitVec.and_assoc, hsub]

/-- Under the constraint of R79, no image of a word of an implemented pattern under a mask tried earlier is a
placeholder. -/
theorem image_not_mem_placeholderKeys {cfg : Config} (hallowed : placeholdersAllowed cfg = true) {k km m w : Word}
    (hrow : (k, km) ∈ implementedKeys) (hw : w &&& km = k) (hm : m ∈ masksBefore cfg.decodeOrder km) :
    w &&& m ∉ cfg.placeholderKeys := by
  intro hmem
  have hkeeps : (w &&& m) &&& ~~~m = 0 := by simp [BitVec.and_assoc]
  have hagrees : (w &&& m) &&& km = k &&& m := by rw [← hw, BitVec.and_assoc, BitVec.and_comm m, BitVec.and_assoc]
  have himage : imageOfPattern k km m (w &&& m) = true := by simp [imageOfPattern, hkeeps, hagrees]
  simp only [placeholdersAllowed, List.all_eq_true] at hallowed
  simpa [himage] using hallowed (k, km) hrow m hm (w &&& m) hmem

/-- A key that is not a placeholder is implemented or absent (R77). -/
theorem tableAt_absent_or_implemented {cfg : Config} {k : Key} (h : k ∉ cfg.placeholderKeys) :
    tableAt cfg k = .absent ∨ ∃ row ∈ implementedKeys, row.1 = k := by
  cases ht : tableAt cfg k with
  | absent => exact .inl rfl
  | unimpl => exact absurd ((tableAt_unimpl_iff cfg k).1 ht).2 h
  | handler => exact .inr (by simpa using (tableAt_handler_iff cfg k).1 ht)

/-- The image under M4 is tried first by NARROW_FIRST, so a present one is the key (R78). -/
theorem decodeKey_narrowFirst_of_present {cfg : Config} (ho : cfg.decodeOrder = .narrowFirst) {w : Word}
    (h : tableAt cfg (w &&& maskM4) ≠ .absent) : decodeKey cfg w = some (w &&& maskM4) := by
  rw [decodeKey_narrowFirst ho, if_pos h]

/-- The image under M4 is tried last by SPECIFIC_FIRST: it is the key if it is present and every other image is either
the same word or absent (R78). -/
theorem decodeKey_specificFirst_of_last {cfg : Config} (ho : cfg.decodeOrder = .specificFirst) {w : Word}
    (hbefore : ∀ m ∈ [maskM12, maskM8], tableAt cfg (w &&& m) = .absent ∨ w &&& m = w &&& maskM4)
    (h : tableAt cfg (w &&& maskM4) ≠ .absent) : decodeKey cfg w = some (w &&& maskM4) := by
  rw [decodeKey_specificFirst ho]
  rcases hbefore maskM12 (by simp) with h12 | h12
  · rcases hbefore maskM8 (by simp) with h8 | h8 <;> simp [h12, h8, h]
  · rw [h12, if_pos h]

/-- Every word of an implemented pattern of mask M4 decodes to the pattern's key, in either order, if no other
implemented key has its leading nibble (R78, R79). -/
theorem decodeKey_of_leading_pattern {cfg : Config} (hwf : cfg.wellFormed = true) {k w : Word}
    (hrow : (k, maskM4) ∈ implementedKeys) (honly : ∀ row ∈ implementedKeys, row.1 &&& maskM4 = k → row.1 = k)
    (hw : w &&& maskM4 = k) : decodeKey cfg w = some k := by
  obtain ⟨hallowed, -⟩ : placeholdersAllowed cfg = true ∧ placeholdersDisjoint cfg = true := by
    simpa [Config.wellFormed] using hwf
  have hhandler : tableAt cfg k = .handler :=
    (tableAt_handler_iff cfg k).2 (List.any_eq_true.2 ⟨_, hrow, beq_self_eq_true k⟩)
  subst hw
  have hpresent : tableAt cfg (w &&& maskM4) ≠ .absent := by simp [hhandler]
  cases ho : cfg.decodeOrder with
  | narrowFirst => exact decodeKey_narrowFirst_of_present ho hpresent
  | specificFirst =>
    refine decodeKey_specificFirst_of_last ho (fun m hm => ?_) hpresent
    have hnot : w &&& m ∉ cfg.placeholderKeys :=
      image_not_mem_placeholderKeys hallowed hrow rfl (by rw [ho]; exact hm)
    rcases tableAt_absent_or_implemented hnot with habsent | ⟨row, himpl, hkey⟩
    · exact .inl habsent
    · exact .inr (hkey.symm.trans (honly row himpl (by rw [hkey, and_and_maskM4 hm])))

/-- The image under M4 is read off the leading nibble (R75). -/
theorem and_maskM4_of_leading {w : Word} {l : Nibble} (h : w.extractLsb' 12 4 = l) :
    w &&& maskM4 = formatFR l 0 0 0 :=
  h ▸ and_maskM4 w

end Sys2Proof

namespace Sys2Proof.Machine

/-! ### Register load and the operations without a flag (42_register_alu.md) -/

/-- The state after an instruction whose effects are one register write and PC + 2: `b` in V[x], and OK answered. -/
def State.writeThenAdvance (s : State) (x : Nibble) (b : Byte) : State := (s.writeV x b).movePC (s.pc + 2)

theorem State.readV_writeThenAdvance_same (s : State) (x : Nibble) (b : Byte) : (s.writeThenAdvance x b).readV x = b :=
  s.readV_writeV_same x b

theorem State.writeThenAdvance_sameVBut (s : State) (x : Nibble) (b : Byte) :
    SameVBut [x] s (s.writeThenAdvance x b) :=
  fun r hr => s.readV_writeV_of_ne x r b (List.ne_of_not_mem_cons hr)

theorem State.writeThenAdvance_frameRegisters (s : State) (x : Nibble) (b : Byte) :
    FrameRegisters s (s.writeThenAdvance x b) :=
  ⟨rfl, ⟨rfl, rfl⟩, ⟨rfl, rfl⟩, sameMemory_of_eq rfl rfl, rfl, rfl, rfl, rfl⟩

/-- What every instruction that ends in `writeThenAdvance` does and leaves unchanged (R20, R23, R101, R111). -/
theorem exec_writes_register {i : Instr} {s : State} {x : Nibble} {b : Byte}
    (h : exec i s = .next (s.writeThenAdvance x b)) :
    ∃ t, exec i s = .next t ∧ t.readV x = b ∧ SameVBut [x] s t ∧ t.pc = s.pc + 2 ∧ FrameRegisters s t ∧
      RespondsOk s t :=
  ⟨_, h, s.readV_writeThenAdvance_same x b, s.writeThenAdvance_sameVBut x b, rfl,
    s.writeThenAdvance_frameRegisters x b, rfl, rfl⟩

theorem exec_ldByte (x : Nibble) (nn : Byte) (s : State) :
    exec (.ldByte x nn) s = .next (s.writeThenAdvance x nn) := rfl

theorem exec_addByte (x : Nibble) (nn : Byte) (s : State) :
    exec (.addByte x nn) s = .next (s.writeThenAdvance x (s.readV x + nn)) := by
  rw [← ofNat_exactSum]
  rfl

theorem exec_ldReg (x y : Nibble) (s : State) :
    exec (.ldReg x y) s = .next (s.writeThenAdvance x (s.readV y)) :=
  regRegOp_eq (fun _ b => b) x y s

theorem exec_orReg (x y : Nibble) (s : State) :
    exec (.orReg x y) s = .next (s.writeThenAdvance x (s.readV x ||| s.readV y)) := regRegOp_eq _ x y s

theorem exec_andReg (x y : Nibble) (s : State) :
    exec (.andReg x y) s = .next (s.writeThenAdvance x (s.readV x &&& s.readV y)) := regRegOp_eq _ x y s

theorem exec_xorReg (x y : Nibble) (s : State) :
    exec (.xorReg x y) s = .next (s.writeThenAdvance x (s.readV x ^^^ s.readV y)) := regRegOp_eq _ x y s

/-- Settles O44: 0x6000 is the one implemented key with leading nibble 6, and the load is one register write. -/
theorem ldByteLoadsImmediate : Obligations.LdByteLoadsImmediate := by
  unfold Obligations.LdByteLoadsImmediate
  refine ⟨fun cfg w hwf hlead => ?_, fun s x nn => ⟨?_, exec_writes_register (exec_ldByte x nn s)⟩⟩
  · have himage : w &&& maskM4 = 0x6000 := and_maskM4_of_leading hlead
    exact decodeKey_of_leading_pattern hwf (by decide) (by simp [implementedKeys, maskM4]) himage
  · rintro rfl rfl
    exact State.execute_implemented (by decide) rfl

/-- Settles O45: 0x7000 is the one implemented key with leading nibble 7, and the write is of the 8-bit sum. -/
theorem addByteWrapsWithoutCarry : Obligations.AddByteWrapsWithoutCarry := by
  unfold Obligations.AddByteWrapsWithoutCarry
  refine ⟨fun cfg w hwf hlead => ?_, fun s x nn => ⟨?_, ?_⟩⟩
  · have himage : w &&& maskM4 = 0x7000 := and_maskM4_of_leading hlead
    exact decodeKey_of_leading_pattern hwf (by decide) (by simp [implementedKeys, maskM4]) himage
  · rintro rfl rfl
    exact State.execute_implemented (by decide) rfl
  · obtain ⟨t, ht, hsum, hrest⟩ := exec_writes_register (exec_addByte x nn s)
    exact ⟨t, ht, by rw [hsum, BitVec.toNat_add], hrest⟩

/-- Settles O46: NARROW_FIRST tries the image 0x8000 first, and the copy is one register write. -/
theorem ldRegCopies : Obligations.LdRegCopies := by
  unfold Obligations.LdRegCopies
  refine ⟨fun cfg w horder hlead => ?_, fun s x y => ⟨?_, exec_writes_register (exec_ldReg x y s)⟩⟩
  · have himage : w &&& maskM4 = 0x8000 := and_maskM4_of_leading hlead
    have hhandler : tableAt cfg (w &&& maskM4) = .handler := himage ▸ (tableAt_handler_iff cfg 0x8000).2 (by decide)
    rw [decodeKey_narrowFirst_of_present horder (by simp [hhandler]), himage]
  · rintro rfl rfl
    exact State.execute_implemented (by decide) rfl

/-- Settles O47: OR is one register write, so VF keeps its value unless x = 0xF. -/
theorem orRegStoresOr : Obligations.OrRegStoresOr := by
  unfold Obligations.OrRegStoresOr
  refine fun s x y => ⟨?_, exec_writes_register (exec_orReg x y s)⟩
  rintro rfl rfl
  exact State.execute_implemented (by decide) rfl

/-- Settles O48: AND is one register write. -/
theorem andRegStoresAnd : Obligations.AndRegStoresAnd := by
  unfold Obligations.AndRegStoresAnd
  refine fun s x y => ⟨?_, exec_writes_register (exec_andReg x y s)⟩
  rintro rfl rfl
  exact State.execute_implemented (by decide) rfl

/-- Settles O49: XOR is one register write. -/
theorem xorRegStoresXor : Obligations.XorRegStoresXor := by
  unfold Obligations.XorRegStoresXor
  refine fun s x y => ⟨?_, exec_writes_register (exec_xorReg x y s)⟩
  rintro rfl rfl
  exact State.execute_implemented (by decide) rfl

end Sys2Proof.Machine

namespace Sys2Proof.Machine

/-! ### Index register load and timer loads (43_index_and_timers.md) -/

/-- R200's mask to 12 bits takes nothing away: the address immediate has twelve bits already (R74). -/
theorem indexOperand_eq_setWidth (nnn : Addr) : indexOperand nnn = nnn.setWidth 16 := by
  apply BitVec.eq_of_toNat_eq
  rw [indexOperand, addrOperand, BitVec.toNat_and, BitVec.toNat_setWidth_of_le (by decide)]
  calc nnn.toNat &&& (2 ^ 12 - 1)
    _ = nnn.toNat % 2 ^ 12 := Nat.and_two_pow_sub_one_eq_mod nnn.toNat 12
    _ = nnn.toNat := Nat.mod_eq_of_lt nnn.isLt

theorem exec_ldI (nnn : Addr) (s : State) :
    exec (.ldI nnn) s = .next ((s.setI (nnn.setWidth 16)).movePC (s.pc + 2)) := by
  rw [← indexOperand_eq_setWidth]
  rfl

theorem exec_ldDT (x : Nibble) (s : State) :
    exec (.ldDT x) s = .next ((s.setDT (s.readV x)).movePC (s.pc + 2)) := rfl

theorem exec_ldST (x : Nibble) (s : State) :
    exec (.ldST x) s = .next ((s.setST (s.readV x)).movePC (s.pc + 2)) := rfl

/-- Settles O55: LD I only moves PC from the state with I loaded, and twelve bits fit the index register. -/
theorem ldILoadsIndex : Obligations.LdILoadsIndex := by
  unfold Obligations.LdILoadsIndex
  intro s nnn
  obtain ⟨hv, -, htimers, hstack, hmemory, hdisplay, hsetup⟩ :=
    (s.setI (nnn.setWidth 16)).movePC_framePC (s.pc + 2)
  have hindex : (nnn.setWidth 16).toNat = nnn.toNat := BitVec.toNat_setWidth_of_le (by decide)
  refine ⟨?_, _, exec_ldI nnn s, hindex, rfl, hv, htimers, hstack, hmemory, hdisplay, hsetup,
    State.movePC_respondsOk _ _⟩
  rintro rfl
  exact State.execute_implemented (by decide) rfl

/-- Settles O56: LD DT only moves PC from the state with DT loaded, so ST is in the move's frame. -/
theorem ldDTSetsDelayTimer : Obligations.LdDTSetsDelayTimer := by
  unfold Obligations.LdDTSetsDelayTimer
  intro s x
  obtain ⟨hv, hindex, ⟨hdt, hst⟩, hstack, hmemory, hdisplay, hsetup⟩ :=
    (s.setDT (s.readV x)).movePC_framePC (s.pc + 2)
  refine ⟨?_, _, exec_ldDT x s, hdt, hst, rfl, hv, hindex, hstack, hmemory, hdisplay, hsetup,
    State.movePC_respondsOk _ _⟩
  rintro rfl
  exact State.execute_implemented (by decide) rfl

/-- Settles O57: LD ST only moves PC from the state with ST loaded, so DT is in the move's frame. -/
theorem ldSTSetsSoundTimer : Obligations.LdSTSetsSoundTimer := by
  unfold Obligations.LdSTSetsSoundTimer
  intro s x
  obtain ⟨hv, hindex, ⟨hdt, hst⟩, hstack, hmemory, hdisplay, hsetup⟩ :=
    (s.setST (s.readV x)).movePC_framePC (s.pc + 2)
  refine ⟨?_, _, exec_ldST x s, hst, hdt, rfl, hv, hindex, hstack, hmemory, hdisplay, hsetup,
    State.movePC_respondsOk _ _⟩
  rintro rfl
  exact State.execute_implemented (by decide) rfl

end Sys2Proof.Machine

namespace Sys2Proof.Machine

/-! ### Keys bound to UNIMPL (44_unimplemented.md) -/

/-- A CYCLE whose word decodes to a key bound to UNIMPL only takes the command off, stores OP and records the error
(R105, R220). -/
theorem step_of_cycleNext_unimpl {s : State} {w : Word} {k : Key} (hnext : s.CycleNext)
    (hf : s.fetch s.pcPosition = .ok w) (hd : decodeKey s.config w = some k) (hunimpl : tableAt s.config k = .unimpl) :
    step s = .next ((s.dropHead.setOP w).recordError (.unimplemented k w)) :=
  calc step s = s.dropHead.runWord w := step_of_cycleNext_fetch hnext hf
    _ = (s.dropHead.setOP w).execute k := State.runWord_of_key hd
    _ = .next ((s.dropHead.setOP w).recordError (.unimplemented k w)) := State.execute_unimpl hunimpl

/-- Settles O58: `execute` of such a key only records the error, and a CYCLE does so on the state with OP stored. -/
theorem unimplKeysRaiseUnimplemented : Obligations.UnimplKeysRaiseUnimplemented := by
  unfold Obligations.UnimplKeysRaiseUnimplemented
  constructor
  · intro s k hunimpl
    exact ⟨_, State.execute_unimpl hunimpl, State.recordError_coreView _ _, sameOutside_of_eq rfl rfl rfl, rfl,
      State.recordError_respondsErr _ _⟩
  · intro s w k hnext hf hd hunimpl
    have hstep := step_of_cycleNext_unimpl hnext hf hd hunimpl
    exact ⟨_, hstep, rfl, rfl, sameOutside_of_eq rfl rfl rfl, rfl, rfl⟩

end Sys2Proof.Machine

namespace Sys2Proof.Machine

/-! ### DispatchKeyNotFound (60_exceptions.md, R243) -/

/-- A CYCLE that appends to the fault log answers with an error other than DispatchKeyNotFound, since the key it executes
was decoded and so is in the table. -/
theorem State.cycle_response_of_faultLog_ne {s t : State} (h : s.cycle = .next t) (hlog : t.faultLog ≠ s.faultLog) :
    ∃ e, t.response = .err e ∧ ∀ k, e ≠ .dispatchKeyNotFound k := by
  obtain ⟨-, -, -, hsame | ⟨e, hne, ⟨-, rfl⟩ | ⟨w, -, rfl⟩⟩⟩ := State.cycle_effect h
  · exact absurd hsame hlog
  · exact ⟨e, rfl, hne⟩
  · exact ⟨e, rfl, hne⟩

theorem RespondsErr.faultLog_ne {e : CoreError} {s t : State} (h : RespondsErr e s t) : t.faultLog ≠ s.faultLog := by
  simp [h.2]

/-- Settles O21: `execute` of an absent key only records the error, and a CYCLE records only errors of other kinds. -/
theorem dispatchKeyNotFoundOnlyFromExecute : Obligations.DispatchKeyNotFoundOnlyFromExecute := by
  unfold Obligations.DispatchKeyNotFoundOnlyFromExecute
  constructor
  · intro s k habsent
    exact ⟨_, State.execute_absent habsent, State.recordError_respondsErr _ _, State.recordError_coreView _ _⟩
  · intro s t k hnext hstep hresponds
    have hcycle : s.dropHead.cycle = .next t := (step_of_cycleNext hnext).symm.trans hstep
    obtain ⟨e, hresponse, hne⟩ := State.cycle_response_of_faultLog_ne hcycle hresponds.faultLog_ne
    have herr : e = .dispatchKeyNotFound k := Response.err.inj (hresponse.symm.trans hresponds.1)
    exact hne k herr

end Sys2Proof.Machine

namespace Sys2Proof

/-! ### Where the default table holds the images of a word (R75, R77, R221) -/

/-- A word is its leading nibble, x, and its trailing byte. -/
theorem word_eq_formatFX (w : Word) : w = formatFX (leadingNibble w) (fieldX w) (fieldNN w) := by
  apply BitVec.eq_of_getLsbD_eq
  intro i hi
  unfold formatFX leadingNibble fieldX fieldNN
  interval_cases i <;> simp

/-- An image under M12 is a given key exactly when that key has no x and agrees on leading nibble and trailing byte. -/
theorem eq_formatFX_zero_iff (k : Word) (l : Nibble) (b : Byte) :
    k = formatFX l 0#4 b ↔ l = leadingNibble k ∧ fieldX k = 0 ∧ b = fieldNN k := by
  constructor
  · rintro rfl
    simp
  · rintro ⟨rfl, hx, rfl⟩
    exact (word_eq_formatFX k).trans (by rw [hx]; rfl)

theorem formatFX_zero_eq_iff (k : Word) (l : Nibble) (b : Byte) :
    formatFX l 0#4 b = k ↔ l = leadingNibble k ∧ fieldX k = 0 ∧ b = fieldNN k :=
  eq_comm.trans (eq_formatFX_zero_iff k l b)

/-- The images under M4: every leading nibble but 0, E and F has a key of its own (R80). -/
theorem tableAt_normative_leading (l : Nibble) :
    tableAt Config.normative (formatFR l 0 0 0) =
      if l = 0x0 ∨ l = 0xE ∨ l = 0xF then .absent
      else if l = 0x9 ∨ l = 0xB ∨ l = 0xC ∨ l = 0xD then .unimpl
      else .handler := by
  revert l
  decide

/-- The images under M8 with leading nibble 0 or E: no key (R80). -/
theorem tableAt_normative_trailing_absent {l : Nibble} (hl : l = 0x0 ∨ l = 0xE) (n : Nibble) :
    tableAt Config.normative (formatFR l 0 0 n) = .absent := by
  revert n
  rcases hl with rfl | rfl <;> decide

/-- The images under M8 with leading nibble F: only FX07 and FX0A (R80). -/
theorem tableAt_normative_trailing_F (n : Nibble) :
    tableAt Config.normative (formatFR 0xF 0 0 n) = if n = 0x7 ∨ n = 0xA then .unimpl else .absent := by
  revert n
  decide

/-- The images under M12 with leading nibble 0 (R80). -/
theorem tableAt_normative_byte_0 (b : Byte) :
    tableAt Config.normative (formatFX 0x0 0 b) =
      if b = 0xE0 then .handler else if b = 0xEE then .unimpl else .absent := by
  simp [tableAt, implementedKeys, Config.normative, Config.defaultPlaceholderKeys, eq_formatFX_zero_iff,
    formatFX_zero_eq_iff, leadingNibble, fieldX, fieldNN]

/-- The images under M12 with leading nibble E (R80). -/
theorem tableAt_normative_byte_E (b : Byte) :
    tableAt Config.normative (formatFX 0xE 0 b) = if b = 0x9E ∨ b = 0xA1 then .unimpl else .absent := by
  simp [tableAt, implementedKeys, Config.normative, Config.defaultPlaceholderKeys, eq_formatFX_zero_iff,
    formatFX_zero_eq_iff, leadingNibble, fieldX, fieldNN]

/-- The images under M12 with leading nibble F (R80). -/
theorem tableAt_normative_byte_F (b : Byte) :
    tableAt Config.normative (formatFX 0xF 0 b) =
      if b = 0x15 ∨ b = 0x18 then .handler
      else if b = 0x07 ∨ b = 0x0A ∨ b = 0x1E ∨ b = 0x29 ∨ b = 0x33 ∨ b = 0x55 ∨ b = 0x65 then .unimpl
      else .absent := by
  simp [tableAt, implementedKeys, Config.normative, Config.defaultPlaceholderKeys, eq_formatFX_zero_iff,
    formatFX_zero_eq_iff, leadingNibble, fieldX, fieldNN]

/-! ### The normative decode map (R80) -/

/-- Leading nibbles other than 0, E and F: the image under M4, tried first, is a key. -/
theorem decodeKey_normative_leading {w : Word}
    (hl : ¬ (leadingNibble w = 0x0 ∨ leadingNibble w = 0xE ∨ leadingNibble w = 0xF)) :
    decodeKey Config.normative w = some (formatFR (leadingNibble w) 0 0 0) := by
  have hpresent : tableAt Config.normative (w &&& maskM4) ≠ .absent := by
    rw [and_maskM4, tableAt_normative_leading, if_neg hl]
    split <;> simp
  rw [decodeKey_narrowFirst_of_present rfl hpresent, and_maskM4]

/-- Leading nibbles 0 and E: only the image under M12, tried last, can be a key. -/
theorem decodeKey_normative_byte {w : Word} {l : Nibble} (hl : leadingNibble w = l) (h0E : l = 0x0 ∨ l = 0xE) :
    decodeKey Config.normative w =
      if tableAt Config.normative (formatFX l 0 (fieldNN w)) ≠ .absent then some (formatFX l 0 (fieldNN w))
      else none := by
  have habsent := tableAt_normative_trailing_absent h0E
  rw [decodeKey_narrowFirst rfl, and_maskM4, and_maskM8, and_maskM12, hl, habsent, habsent]
  rfl

/-- Leading nibble F: the image under M8 is a key for two trailing nibbles, else the image under M12 can be one. -/
theorem decodeKey_normative_F {w : Word} (hl : leadingNibble w = 0xF) :
    decodeKey Config.normative w =
      if fieldN w = 0x7 ∨ fieldN w = 0xA then some (formatFR 0xF 0 0 (fieldN w))
      else if tableAt Config.normative (formatFX 0xF 0 (fieldNN w)) ≠ .absent then some (formatFX 0xF 0 (fieldNN w))
      else none := by
  have habsent : tableAt Config.normative (formatFR 0xF 0 0 0) = .absent := tableAt_normative_leading _
  rw [decodeKey_narrowFirst rfl, and_maskM4, and_maskM8, and_maskM12, hl, habsent, tableAt_normative_trailing_F]
  by_cases hn : fieldN w = 0x7 ∨ fieldN w = 0xA <;> simp only [hn, if_true, if_false] <;> rfl

end Sys2Proof

namespace Sys2Proof.Machine

/-- What the normative decode finds for a word, with what the table binds it to (R80). -/
def normativeFound (w : Word) : Option (Key × TableEntry) :=
  (decodeKey Config.normative w).map (fun k => (k, tableAt Config.normative k))

theorem normativeFound_0 {w : Word} (hl : leadingNibble w = 0x0) : normativeFound w = normativeMap w := by
  have hmap : normativeMap w = if fieldNN w = 0xE0 then some (0x00E0, .handler)
    else if fieldNN w = 0xEE then some (0x00EE, .unimpl) else none := if_pos hl
  rw [hmap, normativeFound, decodeKey_normative_byte hl (.inl rfl)]
  by_cases hE0 : fieldNN w = 0xE0
  · rw [hE0]; rfl
  by_cases hEE : fieldNN w = 0xEE
  · rw [hEE]; rfl
  rw [tableAt_normative_byte_0, if_neg hE0, if_neg hEE, if_neg hE0, if_neg hEE]
  rfl

theorem normativeFound_E {w : Word} (hl : leadingNibble w = 0xE) : normativeFound w = normativeMap w := by
  have hmap : normativeMap w = if fieldNN w = 0x9E then some (0xE09E, .unimpl)
    else if fieldNN w = 0xA1 then some (0xE0A1, .unimpl) else none := by
    rw [leadingNibble] at hl
    simp only [normativeMap, hl]
    rfl
  rw [hmap, normativeFound, decodeKey_normative_byte hl (.inr rfl)]
  by_cases h9E : fieldNN w = 0x9E
  · rw [h9E]; rfl
  by_cases hA1 : fieldNN w = 0xA1
  · rw [hA1]; rfl
  rw [tableAt_normative_byte_E, if_neg (not_or.2 ⟨h9E, hA1⟩), if_neg h9E, if_neg hA1]
  rfl

theorem normativeFound_F {w : Word} (hl : leadingNibble w = 0xF) : normativeFound w = normativeMap w := by
  have hmap : normativeMap w = if fieldN w = 0x7 then some (0xF007, .unimpl)
    else if fieldN w = 0xA then some (0xF00A, .unimpl)
    else if fieldNN w = 0x15 then some (0xF015, .handler)
    else if fieldNN w = 0x18 then some (0xF018, .handler)
    else if fieldNN w = 0x1E ∨ fieldNN w = 0x29 ∨ fieldNN w = 0x33 ∨ fieldNN w = 0x55 ∨ fieldNN w = 0x65 then
      some (0xF000#16 ||| (fieldNN w).setWidth 16, .unimpl)
    else none := by
    rw [leadingNibble] at hl
    simp only [normativeMap, hl]
    rfl
  rw [hmap, normativeFound, decodeKey_normative_F hl]
  by_cases h7 : fieldN w = 0x7
  · rw [h7]; rfl
  by_cases hA : fieldN w = 0xA
  · rw [hA]; rfl
  rw [if_neg (not_or.2 ⟨h7, hA⟩), if_neg h7, if_neg hA]
  by_cases h15 : fieldNN w = 0x15
  · rw [h15]; rfl
  by_cases h18 : fieldNN w = 0x18
  · rw [h18]; rfl
  rw [if_neg h15, if_neg h18]
  by_cases hrest : fieldNN w = 0x1E ∨ fieldNN w = 0x29 ∨ fieldNN w = 0x33 ∨ fieldNN w = 0x55 ∨ fieldNN w = 0x65
  · rcases hrest with h | h | h | h | h <;> rw [h] <;> rfl
  have h07 : fieldNN w ≠ 0x07 := fun h => h7 (by rw [fieldN_eq_fieldNN, h]; rfl)
  have h0A : fieldNN w ≠ 0x0A := fun h => hA (by rw [fieldN_eq_fieldNN, h]; rfl)
  have habsent : tableAt Config.normative (formatFX 0xF 0 (fieldNN w)) = .absent := by
    rw [tableAt_normative_byte_F, if_neg (not_or.2 ⟨h15, h18⟩), if_neg]
    rintro (h | h | h)
    exacts [h07 h, h0A h, hrest h]
  rw [habsent, if_neg hrest]
  rfl

theorem normativeFound_leading {w : Word}
    (hl : ¬ (leadingNibble w = 0x0 ∨ leadingNibble w = 0xE ∨ leadingNibble w = 0xF)) :
    normativeFound w = normativeMap w := by
  have hkey : formatFR (leadingNibble w) 0 0 0 = (leadingNibble w).setWidth 16 <<< 12 := by simp [formatFR]
  obtain ⟨h0, hE, hF⟩ : leadingNibble w ≠ 0x0 ∧ leadingNibble w ≠ 0xE ∧ leadingNibble w ≠ 0xF := by tauto
  have hmap : normativeMap w =
    if leadingNibble w = 0x9 ∨ leadingNibble w = 0xB ∨ leadingNibble w = 0xC ∨ leadingNibble w = 0xD then
      some ((leadingNibble w).setWidth 16 <<< 12, .unimpl)
    else some ((leadingNibble w).setWidth 16 <<< 12, .handler) := by
    rw [leadingNibble] at h0 hE hF
    simp only [normativeMap, h0, hE, hF, if_false]
    rfl
  rw [hmap, normativeFound, decodeKey_normative_leading hl, Option.map_some, tableAt_normative_leading, if_neg hl, hkey]
  split <;> rfl

/-- Settles O4, by leading nibble: 0 and E are told apart by the trailing byte, F by the trailing nibble and then the
trailing byte, and every other leading nibble is a key of its own. -/
theorem normativeDecodeMap : Obligations.NormativeDecodeMap := by
  unfold Obligations.NormativeDecodeMap
  intro w
  by_cases hl : leadingNibble w = 0x0 ∨ leadingNibble w = 0xE ∨ leadingNibble w = 0xF
  · rcases hl with h0 | hE | hF
    · exact normativeFound_0 h0
    · exact normativeFound_E hE
    · exact normativeFound_F hF
  · exact normativeFound_leading hl

end Sys2Proof.Machine

namespace Sys2Proof

/-! ### The two decode orders (R78, R83) -/

/-- The keys of the table under the default placeholders (R76, R221). -/
def defaultKeys : List Key := implementedKeys.map Prod.fst ++ Config.defaultPlaceholderKeys

theorem mem_defaultKeys_of_present {k : Key} (h : tableAt Config.normative k ≠ .absent) : k ∈ defaultKeys := by
  cases ht : tableAt Config.normative k with
  | absent => exact absurd ht h
  | handler =>
    obtain ⟨row, hrow, rfl⟩ : ∃ row ∈ implementedKeys, row.1 = k := by simpa using (tableAt_handler_iff _ _).1 ht
    exact List.mem_append_left _ (List.mem_map_of_mem hrow)
  | unimpl => exact List.mem_append_right _ ((tableAt_unimpl_iff _ _).1 ht).2

/-- What holds of each default key holds of every present one. -/
theorem of_present {p : Key → Prop} (hall : defaultKeys.Forall p) {k : Key}
    (h : tableAt Config.normative k ≠ .absent) : p k :=
  List.forall_iff_forall_mem.1 hall k (mem_defaultKeys_of_present h)

/-- M12 keeps every bit that M8 keeps, so masking with M12 first loses nothing M8 keeps (R75). -/
theorem and_maskM12_and_maskM8 (w : Word) : (w &&& maskM12) &&& maskM8 = w &&& maskM8 := by
  have hsub : maskM12 &&& maskM8 = maskM8 := rfl
  rw [BitVec.and_assoc, hsub]

/-- The two orders find the same key in one table if, wherever an image is present, each coarser one is absent or the
same word. -/
theorem decodeKey_order_irrelevant {cfg cfg' : Config} (hn : cfg.decodeOrder = .narrowFirst)
    (hs : cfg'.decodeOrder = .specificFirst) (hkeys : cfg'.placeholderKeys = cfg.placeholderKeys) {w : Word}
    (h8 : tableAt cfg (w &&& maskM8) ≠ .absent →
      w &&& maskM4 = w &&& maskM8 ∨ tableAt cfg (w &&& maskM4) = .absent)
    (h12 : tableAt cfg (w &&& maskM12) ≠ .absent →
      (w &&& maskM4 = w &&& maskM12 ∨ tableAt cfg (w &&& maskM4) = .absent) ∧
      (w &&& maskM8 = w &&& maskM12 ∨ tableAt cfg (w &&& maskM8) = .absent)) :
    decodeKey cfg' w = decodeKey cfg w := by
  have htable (k : Key) : tableAt cfg' k = tableAt cfg k := tableAt_congr hkeys k
  rw [decodeKey_narrowFirst hn, decodeKey_specificFirst hs, htable, htable, htable]
  by_cases p12 : tableAt cfg (w &&& maskM12) = .absent
  · by_cases p8 : tableAt cfg (w &&& maskM8) = .absent
    · simp [p12, p8]
    · rcases h8 p8 with h | h <;> simp [p12, p8, h]
  · obtain ⟨h4 | h4, h8 | h8⟩ := h12 p12 <;> simp [p12, h4, h8]

/-- Outside leading nibble 8 the image of a default key under a coarser mask is the key itself or absent. -/
theorem coarser_image_of_present {k : Key} (h : tableAt Config.normative k ≠ .absent) (hl : leadingNibble k ≠ 0x8) :
    (k &&& maskM4 = k ∨ tableAt Config.normative (k &&& maskM4) = .absent) ∧
    (k &&& maskM8 = k ∨ tableAt Config.normative (k &&& maskM8) = .absent) := by
  revert hl
  refine of_present (p := fun k => leadingNibble k ≠ 0x8 →
    (k &&& maskM4 = k ∨ tableAt Config.normative (k &&& maskM4) = .absent) ∧
    (k &&& maskM8 = k ∨ tableAt Config.normative (k &&& maskM8) = .absent)) ?_ h
  decide

/-- With leading nibble 8 every default key is an image under M8. -/
theorem and_maskM8_of_present_8 {k : Key} (h : tableAt Config.normative k ≠ .absent) (hl : leadingNibble k = 0x8) :
    k &&& maskM8 = k :=
  of_present (p := fun k => leadingNibble k = 0x8 → k &&& maskM8 = k) (by decide) h hl

theorem leadingNibble_and_maskM8 (w : Word) : leadingNibble (w &&& maskM8) = leadingNibble w := by
  rw [and_maskM8, leadingNibble_formatFR]

theorem leadingNibble_and_maskM12 (w : Word) : leadingNibble (w &&& maskM12) = leadingNibble w := by
  rw [and_maskM12, leadingNibble_formatFX]

/-- Outside leading nibble 8 the default table makes no difference between the orders (R83). -/
theorem decodeKey_specificFirst_of_ne_8 {w : Word} (hl : leadingNibble w ≠ 0x8) :
    decodeKey Config.specificFirst w = decodeKey Config.normative w := by
  refine decodeKey_order_irrelevant (cfg := Config.normative) (cfg' := Config.specificFirst) rfl rfl rfl
    (fun h8 => ?_) (fun h12 => ?_)
  · have h := (coarser_image_of_present h8 (by rwa [leadingNibble_and_maskM8])).1
    rwa [and_and_maskM4 (by simp)] at h
  · have h := coarser_image_of_present h12 (by rwa [leadingNibble_and_maskM12])
    rwa [and_and_maskM4 (by simp), and_maskM12_and_maskM8] at h

end Sys2Proof

namespace Sys2Proof.Machine

/-- The images under M8 with leading nibble 8, by trailing nibble: R83's list, and 0x8000 for the rest. -/
theorem specificFirstEightKey_eq (n : Nibble) :
    (if tableAt Config.normative (formatFR 0x8 0 0 n) ≠ .absent then formatFR 0x8 0 0 n else formatFR 0x8 0 0 0) =
      specificFirstEightKey n := by
  revert n
  decide

/-- With leading nibble 8 the image under M12 is no key of its own, so SPECIFIC_FIRST decides by the trailing nibble
(R83). -/
theorem decodeKey_specificFirst_8 {w : Word} (hl : leadingNibble w = 0x8) :
    decodeKey Config.specificFirst w = some (specificFirstEightKey (fieldN w)) := by
  have htable (k : Key) : tableAt Config.specificFirst k = tableAt Config.normative k := tableAt_congr rfl k
  have h12 (h : tableAt Config.normative (w &&& maskM12) ≠ .absent) : w &&& maskM12 = w &&& maskM8 := by
    rw [← and_maskM12_and_maskM8, and_maskM8_of_present_8 h (by rwa [leadingNibble_and_maskM12])]
  have h4 : tableAt Config.normative (w &&& maskM4) ≠ .absent := by rw [and_maskM4, hl]; decide
  rw [decodeKey_specificFirst rfl, htable, htable, htable, ← specificFirstEightKey_eq, ← hl, ← and_maskM8, ← and_maskM4]
  by_cases p12 : tableAt Config.normative (w &&& maskM12) = .absent
  · by_cases p8 : tableAt Config.normative (w &&& maskM8) = .absent <;> simp [p12, p8, h4]
  · have p8 : tableAt Config.normative (w &&& maskM8) ≠ .absent := h12 p12 ▸ p12
    simp [h12 p12, p8]

/-- Settles O5: the orders differ only where a word has two different images in the table, which takes leading
nibble 8. -/
theorem specificFirstDecodeMap : Obligations.SpecificFirstDecodeMap := by
  unfold Obligations.SpecificFirstDecodeMap
  intro w
  by_cases hl : leadingNibble w = 0x8
  · exact (decodeKey_specificFirst_8 hl).trans (if_pos hl).symm
  · exact (decodeKey_specificFirst_of_ne_8 hl).trans (if_neg hl).symm

/-! ### Decoding an encoded instruction (R73, R78) -/

open Laws.OperandRoundTrip in
/-- An instruction's own word, read under its own key, is the instruction with every operand. -/
theorem operands_survive : ∀ i : Instr, Laws.OperandRoundTrip.Statement i
  | .cls => cls
  | .jp nnn => jp nnn
  | .call nnn => call nnn
  | .seByte x nn => seByte x nn
  | .sneByte x nn => sneByte x nn
  | .seReg x y => seReg x y
  | .ldByte x nn => ldByte x nn
  | .addByte x nn => addByte x nn
  | .ldReg x y => ldReg x y
  | .orReg x y => orReg x y
  | .andReg x y => andReg x y
  | .xorReg x y => xorReg x y
  | .addReg x y => addReg x y
  | .subReg x y => subReg x y
  | .subnReg x y => subnReg x y
  | .ldI nnn => ldI nnn
  | .ldDT x => ldDT x
  | .ldST x => ldST x
  | .ret => ret
  | .shr x y => shr x y
  | .shl x y => shl x y
  | .sneReg x y => sneReg x y
  | .jpV0 nnn => jpV0 nnn
  | .rnd x nn => rnd x nn
  | .drw x y n => drw x y n
  | .skp x => skp x
  | .sknp x => sknp x
  | .ldVxDT x => ldVxDT x
  | .ldVxK x => ldVxK x
  | .addI x => addI x
  | .ldF x => ldF x
  | .ldB x => ldB x
  | .storeRegs x => storeRegs x
  | .loadRegs x => loadRegs x

/-- Outside leading nibble 8 the normative decode reads an instruction's word as itself (R81). -/
theorem normativeReading_of_ne_8 {i : Instr} (hl : leadingNibble (encode i) ≠ 0x8) : normativeReading i = i := by
  cases i
  case orReg | andReg | xorReg | addReg | subReg | subnReg | shr | shl => exact absurd (leadingNibble_formatFR ..) hl
  all_goals rfl

/-- With leading nibble 8 it reads LD Vx, Vy with the word's own x and y (R81), and R83's list gives the key back. -/
theorem readings_of_8 {i : Instr} (hl : leadingNibble (encode i) = 0x8) :
    normativeReading i = .ldReg (fieldX (encode i)) (fieldY (encode i)) ∧
      specificFirstEightKey (fieldN (encode i)) = i.key := by
  cases i
  case ldReg | orReg | andReg | xorReg | addReg | subReg | subnReg | shr | shl =>
    simp [normativeReading, encode, specificFirstEightKey, Instr.key]
  all_goals simp [encode] at hl
  all_goals exact absurd hl (by decide)

theorem extractLsb'_leading (w : Word) : w.extractLsb' 12 4 = leadingNibble w := rfl
theorem extractLsb'_byte (w : Word) : w.extractLsb' 0 8 = fieldNN w := rfl
theorem extractLsb'_trailing (w : Word) : w.extractLsb' 0 4 = fieldN w := rfl

/-- Outside leading nibble 8 the map gives an instruction's word the instruction's own key (R76, R80). -/
theorem normativeMap_encode {i : Instr} (hl : leadingNibble (encode i) ≠ 0x8) :
    (normativeMap (encode i)).map Prod.fst = some i.key := by
  cases i
  case ldReg | orReg | andReg | xorReg | addReg | subReg | subnReg | shr | shl =>
    exact absurd (leadingNibble_formatFR ..) hl
  case cls | ret => rfl
  all_goals
    simp [normativeMap, encode, Instr.key, extractLsb'_leading, extractLsb'_byte, extractLsb'_trailing, fieldN_formatFX]

theorem decodeKey_normative_encode {i : Instr} (hl : leadingNibble (encode i) ≠ 0x8) :
    decodeKey Config.normative (encode i) = some i.key := by
  have h := congrArg (Option.map Prod.fst) (normativeDecodeMap (encode i))
  simpa [normativeMap_encode hl, Function.comp_def] using h

/-- Settles O3: with leading nibble 8 the first mask gives 0x8000, which is LD Vx, Vy with the word's x and y; any other
word gives its instruction's key and the key its instruction. -/
theorem decodeOfEncodeNormative : Obligations.DecodeOfEncodeNormative := by
  unfold Obligations.DecodeOfEncodeNormative
  intro i rest
  have hdecode : decode Config.normative (encode i) = .ok (normativeReading i) := by
    by_cases hl : leadingNibble (encode i) = 0x8
    · have hkey : decodeKey Config.normative (encode i) = some 0x8000 := by
        rw [decodeKey_normative_leading (by rw [hl]; decide), hl]
        rfl
      exact decode_of_key hkey (congrArg some (readings_of_8 hl).1.symm)
    · rw [normativeReading_of_ne_8 hl]
      exact decode_of_key (decodeKey_normative_encode hl) (operands_survive i)
  rw [decodeBytes_encodeBytes, hdecode]
  rfl

/-- Settles O2: with leading nibble 8 the trailing nibble gives the instruction's key, and elsewhere the order makes no
difference; the key gives back the instruction. -/
theorem decodeOfEncodeSpecificFirst : Obligations.DecodeOfEncodeSpecificFirst := by
  unfold Obligations.DecodeOfEncodeSpecificFirst
  intro i rest
  have hkey : decodeKey Config.specificFirst (encode i) = some i.key := by
    by_cases hl : leadingNibble (encode i) = 0x8
    · rw [decodeKey_specificFirst_8 hl, (readings_of_8 hl).2]
    · rw [decodeKey_specificFirst_of_ne_8 hl, decodeKey_normative_encode hl]
  rw [decodeBytes_encodeBytes, decode_of_key hkey (operands_survive i)]
  rfl

end Sys2Proof.Machine

namespace Sys2Proof.Machine

/-! ### Calls and placeholders (41_screen_and_control_flow.md, 44_unimplemented.md) -/

/-- The state after a call with a free slot: its own address pushed, PC at the target, and OK answered (R136). -/
def State.callTo (s : State) (nnn : Addr) (free : s.sp.val < 16) : State := (s.push s.pc free).movePC (nnn.setWidth 16)

theorem exec_call_of_free (nnn : Addr) {s : State} (free : s.sp.val < 16) :
    exec (.call nnn) s = .next (s.callTo nnn free) :=
  dif_pos free

theorem exec_call_of_full (nnn : Addr) {s : State} (hfull : s.sp.val = 16) :
    exec (.call nnn) s = .next (s.recordError (.stackOverflow s.pc nnn)) :=
  dif_neg (by omega)

theorem exec_placeholder {i : Instr} (hi : isPlaceholder i = true) (s : State) :
    exec i s = .next (s.recordError (.unimplemented i.key s.op)) := by
  rcases exec_cases i s with ⟨t, -, -, -, -, -, -, hnot⟩ | ⟨-, h⟩ | ⟨nnn, rfl, -⟩
  · simp [hi] at hnot
  · exact h
  · cases hi

/-- An error recorded in a state is answered there, with the core state, what is outside it and what is pending kept. -/
theorem State.recordError_precise (s : State) (e : CoreError) :
    (s.recordError e).coreView = s.coreView ∧ SameOutside s (s.recordError e) ∧
      (s.recordError e).pending = s.pending ∧ RespondsErr e s (s.recordError e) :=
  ⟨rfl, sameOutside_of_eq rfl rfl rfl, rfl, rfl, rfl⟩

/-- Settles O59: a placeholder only records its error. -/
theorem placeholderInstructionsRaise : Obligations.PlaceholderInstructionsRaise := by
  unfold Obligations.PlaceholderInstructionsRaise
  intro i s hi
  exact ⟨_, exec_placeholder hi s, s.recordError_precise _⟩

/-- Settles O39: with every slot in use a call only records its error. -/
theorem callOverflowsPrecisely : Obligations.CallOverflowsPrecisely := by
  unfold Obligations.CallOverflowsPrecisely
  intro s nnn hfull
  exact ⟨_, exec_call_of_full nnn hfull, s.recordError_precise _⟩

/-- Settles O38: a call only moves PC from the state with its address pushed. -/
theorem callPushesItsOwnAddress : Obligations.CallPushesItsOwnAddress := by
  unfold Obligations.CallPushesItsOwnAddress
  intro s nnn free
  obtain ⟨hv, hindex, htimers, -, hmemory, hdisplay, hsetup⟩ := (s.push s.pc free).movePC_framePC (nnn.setWidth 16)
  refine ⟨?_, _, exec_call_of_free nnn free, rfl, rfl, s.push_slot s.pc free, hv, hindex, htimers, hmemory, hdisplay,
    hsetup, State.movePC_respondsOk _ _⟩
  rintro rfl
  exact State.execute_implemented (by decide) rfl

/-- Settles O43, by whether V[x] = NN: the two comparisons are each other's negation. -/
theorem byteSkipsAreComplementary : Obligations.ByteSkipsAreComplementary := by
  unfold Obligations.ByteSkipsAreComplementary
  intro s t u x nn ht hu
  obtain rfl := Host.Outcome.next.inj ((exec_seByte x nn s).symm.trans ht)
  obtain rfl := Host.Outcome.next.inj ((exec_sneByte x nn s).symm.trans hu)
  by_cases h : s.readV x = nn
  · exact .inl ⟨if_pos h, if_neg (not_not.2 h)⟩
  · exact .inr ⟨if_neg h, if_pos h⟩

/-! ### The operations with a flag (42_register_alu.md) -/

/-- The state after an instruction that writes a result to V[x], then the flag to VF, then advances PC (R175). -/
def State.writeFlaggedThenAdvance (s : State) (x : Nibble) (b : Byte) (flag : Bool) : State :=
  ((s.writeV x b).setCarry flag).movePC (s.pc + 2)

theorem State.readV_flag_writeFlaggedThenAdvance (s : State) (x : Nibble) (b : Byte) (flag : Bool) :
    (s.writeFlaggedThenAdvance x b flag).readV 0xF = if flag then 1 else 0 :=
  readV_flag_after s x b flag

theorem State.readV_result_writeFlaggedThenAdvance (s : State) {x : Nibble} (b : Byte) (flag : Bool) (hx : x ≠ 0xF) :
    (s.writeFlaggedThenAdvance x b flag).readV x = b :=
  readV_result_after s b flag hx

theorem State.writeFlaggedThenAdvance_sameVBut (s : State) (x : Nibble) (b : Byte) (flag : Bool) :
    SameVBut [x, 0xF] s (s.writeFlaggedThenAdvance x b flag) := by
  intro r hr
  obtain ⟨hx, hf⟩ : r ≠ x ∧ r ≠ 0xF := by simpa using hr
  exact readV_other_after s b flag hx hf

theorem State.writeFlaggedThenAdvance_frameRegisters (s : State) (x : Nibble) (b : Byte) (flag : Bool) :
    FrameRegisters s (s.writeFlaggedThenAdvance x b flag) :=
  ⟨rfl, ⟨rfl, rfl⟩, ⟨rfl, rfl⟩, sameMemory_of_eq rfl rfl, rfl, rfl, rfl, rfl⟩

/-- What every instruction that ends in `writeFlaggedThenAdvance` does and leaves unchanged (R22, R23, R101, R111). -/
theorem exec_writes_flagged {i : Instr} {s : State} {x : Nibble} {b : Byte} {flag : Bool}
    (h : exec i s = .next (s.writeFlaggedThenAdvance x b flag)) :
    ∃ t, exec i s = .next t ∧ t.readV 0xF = (if flag then 1 else 0) ∧ (x ≠ 0xF → t.readV x = b) ∧
      SameVBut [x, 0xF] s t ∧ t.pc = s.pc + 2 ∧ FrameRegisters s t ∧ RespondsOk s t :=
  ⟨_, h, s.readV_flag_writeFlaggedThenAdvance x b flag, s.readV_result_writeFlaggedThenAdvance b flag,
    s.writeFlaggedThenAdvance_sameVBut x b flag, rfl, s.writeFlaggedThenAdvance_frameRegisters x b flag, rfl, rfl⟩

theorem exec_addReg (x y : Nibble) (s : State) :
    exec (.addReg x y) s = .next (s.writeFlaggedThenAdvance x (s.readV x + s.readV y)
      (carryOfSum (exactSum (s.readV x) (s.readV y)))) := by
  rw [← ofNat_exactSum]
  rfl

theorem exec_subReg (x y : Nibble) (s : State) :
    exec (.subReg x y) s = .next (s.writeFlaggedThenAdvance x (s.readV x - s.readV y)
      (flagOfDiff s.config.subFlagRule (exactDiff (s.readV x) (s.readV y)))) := by
  rw [← ofInt_exactDiff]
  rfl

theorem exec_subnReg (x y : Nibble) (s : State) :
    exec (.subnReg x y) s = .next (s.writeFlaggedThenAdvance x (s.readV y - s.readV x)
      (flagOfDiff s.config.subFlagRule (exactDiff (s.readV y) (s.readV x)))) := by
  rw [← ofInt_exactDiff]
  rfl

theorem carryOfSum_exactSum_iff (a b : Byte) : carryOfSum (exactSum a b) = true ↔ a.toNat + b.toNat > 255 := by
  simp [carryOfSum, exactSum]

theorem flagOfDiff_positiveDiff_iff (a b : Byte) :
    flagOfDiff .positiveDiff (exactDiff a b) = true ↔ b.toNat < a.toNat := by
  simp [flagOfDiff, exactDiff]

theorem flagOfDiff_noBorrow_iff (a b : Byte) :
    flagOfDiff .noBorrow (exactDiff a b) = true ↔ b.toNat ≤ a.toNat := by
  simp [flagOfDiff, exactDiff]

/-- The 8-bit difference is the exact one modulo 256 (R182). -/
theorem toNat_sub_eq_emod (a b : Byte) : ((a - b).toNat : Int) = ((a.toNat : Int) - (b.toNat : Int)) % 256 := by
  have ha := a.isLt
  have hb := b.isLt
  rw [BitVec.toNat_sub]
  omega

theorem flagByte_eq_one_iff (flag : Bool) : (if flag then (1 : Byte) else 0) = 1 ↔ flag = true := by
  cases flag <;> simp

/-- Settles O50: ADD writes the 8-bit sum and then the carry. -/
theorem addRegSumsAndSetsCarry : Obligations.AddRegSumsAndSetsCarry := by
  unfold Obligations.AddRegSumsAndSetsCarry
  intro s x y
  obtain ⟨t, ht, hflag, hsum, hframe⟩ := exec_writes_flagged (exec_addReg x y s)
  refine ⟨?_, t, ht, hflag.trans (if_congr (carryOfSum_exactSum_iff _ _) rfl rfl), fun hx => ?_, hframe⟩
  · rintro rfl rfl
    exact State.execute_implemented (by decide) rfl
  · rw [hsum hx, BitVec.toNat_add]

/-- What an instruction that subtracts `b` from `a` into V[x] does, for both values of SUB_FLAG_RULE (R176, R179). -/
theorem exec_subtracts {i : Instr} {s : State} {x : Nibble} {a b : Byte}
    (h : exec i s = .next (s.writeFlaggedThenAdvance x (a - b) (flagOfDiff s.config.subFlagRule (exactDiff a b)))) :
    ∃ t, exec i s = .next t ∧
      (s.config.subFlagRule = .positiveDiff → t.readV 0xF = if b.toNat < a.toNat then 1 else 0) ∧
      (s.config.subFlagRule = .noBorrow → t.readV 0xF = if b.toNat ≤ a.toNat then 1 else 0) ∧
      (x ≠ 0xF → t.readV x = a - b) ∧
      SameVBut [x, 0xF] s t ∧ t.pc = s.pc + 2 ∧ FrameRegisters s t ∧ RespondsOk s t := by
  obtain ⟨t, ht, hflag, hrest⟩ := exec_writes_flagged h
  refine ⟨t, ht, fun hrule => ?_, fun hrule => ?_, hrest⟩ <;> rw [hflag, hrule]
  · exact if_congr (flagOfDiff_positiveDiff_iff a b) rfl rfl
  · exact if_congr (flagOfDiff_noBorrow_iff a b) rfl rfl

/-- Settles O51: SUB subtracts V[y] from V[x]. -/
theorem subRegSubtractsAndSetsFlag : Obligations.SubRegSubtractsAndSetsFlag := by
  unfold Obligations.SubRegSubtractsAndSetsFlag
  intro s x y
  obtain ⟨t, ht, hpositive, hnoBorrow, hdiff, hframe⟩ := exec_subtracts (exec_subReg x y s)
  refine ⟨?_, t, ht, hpositive, hnoBorrow, fun hx => ?_, hframe⟩
  · rintro rfl rfl
    exact State.execute_implemented (by decide) rfl
  · rw [hdiff hx, toNat_sub_eq_emod]

/-- Settles O52: SUBN subtracts V[x] from V[y]. -/
theorem subnRegSubtractsReversed : Obligations.SubnRegSubtractsReversed := by
  unfold Obligations.SubnRegSubtractsReversed
  intro s x y
  obtain ⟨t, ht, hpositive, hnoBorrow, hdiff, hframe⟩ := exec_subtracts (exec_subnReg x y s)
  refine ⟨?_, t, ht, hpositive, hnoBorrow, fun hx => ?_, hframe⟩
  · rintro rfl rfl
    exact State.execute_implemented (by decide) rfl
  · rw [hdiff hx, toNat_sub_eq_emod]

/-- The subtractions in the form of R182: the 8-bit difference, and VF = 1 by the unsigned order of the operands. -/
theorem exec_subtracts_modulo {i : Instr} {s : State} {x : Nibble} {a b : Byte} (hx : x ≠ 0xF)
    (h : exec i s = .next (s.writeFlaggedThenAdvance x (a - b) (flagOfDiff s.config.subFlagRule (exactDiff a b)))) :
    ∃ t, exec i s = .next t ∧ t.readV x = a - b ∧
      (s.config.subFlagRule = .positiveDiff → (t.readV 0xF = 1 ↔ b < a)) ∧
      (s.config.subFlagRule = .noBorrow → (t.readV 0xF = 1 ↔ b ≤ a)) ∧ RespondsOk s t := by
  obtain ⟨t, ht, hflag, hdiff, -, -, -, hok⟩ := exec_writes_flagged h
  refine ⟨t, ht, hdiff hx, fun hrule => ?_, fun hrule => ?_, hok⟩ <;> rw [hflag, hrule, flagByte_eq_one_iff]
  · exact flagOfDiff_positiveDiff_iff a b
  · exact flagOfDiff_noBorrow_iff a b

/-- Settles O53: each result is the 8-bit operation on the operands, and each flag the comparison it stands for. -/
theorem arithmeticIsModulo256 : Obligations.ArithmeticIsModulo256 := by
  unfold Obligations.ArithmeticIsModulo256
  intro s x y nn
  refine ⟨?_, fun hx =>
    ⟨?_, exec_subtracts_modulo hx (exec_subReg x y s), exec_subtracts_modulo hx (exec_subnReg x y s)⟩⟩
  · obtain ⟨t, ht, hsum, hsame, -, -, hok⟩ := exec_writes_register (exec_addByte x nn s)
    exact ⟨t, ht, hsum, fun hx => hsame 0xF (by simpa using hx.symm), hok⟩
  · obtain ⟨t, ht, hflag, hsum, -, -, -, hok⟩ := exec_writes_flagged (exec_addReg x y s)
    exact ⟨t, ht, hsum hx, by rw [hflag, flagByte_eq_one_iff, carryOfSum_exactSum_iff], hok⟩

/-- The state under the given SUB_FLAG_RULE. -/
def State.withFlagRule (s : State) (rule : SubFlagRule) : State :=
  { s with config := { s.config with subFlagRule := rule } }

/-- The state after a subtraction of `b` from `a` into V[x] under the given SUB_FLAG_RULE. -/
def State.subtracted (s : State) (x : Nibble) (a b : Byte) (rule : SubFlagRule) : State :=
  (s.withFlagRule rule).writeFlaggedThenAdvance x (a - b) (flagOfDiff rule (exactDiff a b))

/-- On different operands the rules set the same flag, so they leave the same core state (R177, R180). -/
theorem State.subtracted_coreView_of_ne (s : State) (x : Nibble) {a b : Byte} (h : a ≠ b) :
    (s.subtracted x a b .positiveDiff).coreView = (s.subtracted x a b .noBorrow).coreView := by
  have hne : a.toNat ≠ b.toNat := fun e => h (BitVec.eq_of_toNat_eq e)
  have hflag : flagOfDiff .positiveDiff (exactDiff a b) = flagOfDiff .noBorrow (exactDiff a b) := by
    rw [Bool.eq_iff_iff, flagOfDiff_positiveDiff_iff, flagOfDiff_noBorrow_iff]
    omega
  rw [State.subtracted, State.subtracted, hflag]
  rfl

/-- On equal operands the flag is clear under one rule and set under the other, and nothing else of the core state
differs (R177, R180). -/
theorem State.subtracted_of_eq (s : State) (x : Nibble) {a b : Byte} (h : a = b) :
    (s.subtracted x a b .positiveDiff).readV 0xF = 0 ∧ (s.subtracted x a b .noBorrow).readV 0xF = 1 ∧
      (s.subtracted x a b .positiveDiff).coreView =
        { (s.subtracted x a b .noBorrow).coreView with v := (s.subtracted x a b .positiveDiff).v } ∧
      ∀ r : Nibble, r ≠ 0xF → (s.subtracted x a b .positiveDiff).readV r = (s.subtracted x a b .noBorrow).readV r := by
  subst h
  refine ⟨?_, ?_, rfl, fun r hr => ?_⟩
  · exact (State.readV_flag_writeFlaggedThenAdvance ..).trans (by simp [flagOfDiff, exactDiff])
  · exact (State.readV_flag_writeFlaggedThenAdvance ..).trans (by simp [flagOfDiff, exactDiff])
  · exact (State.readV_writeV_of_ne _ _ _ _ hr).trans (State.readV_writeV_of_ne _ _ _ _ hr).symm

theorem exec_subReg_withFlagRule (s : State) (x y : Nibble) (rule : SubFlagRule) :
    exec (.subReg x y) (s.withFlagRule rule) = .next (s.subtracted x (s.readV x) (s.readV y) rule) :=
  exec_subReg x y (s.withFlagRule rule)

theorem exec_subnReg_withFlagRule (s : State) (x y : Nibble) (rule : SubFlagRule) :
    exec (.subnReg x y) (s.withFlagRule rule) = .next (s.subtracted x (s.readV y) (s.readV x) rule) :=
  exec_subnReg x y (s.withFlagRule rule)

/-- Settles O54: SUB and SUBN are one subtraction with the operands exchanged, compared under the two rules. -/
theorem subFlagRulesDifferOnlyOnEqual : Obligations.SubFlagRulesDifferOnlyOnEqual := by
  unfold Obligations.SubFlagRulesDifferOnlyOnEqual
  rintro s p n x y i (rfl | rfl) hp hn
  · obtain rfl := Host.Outcome.next.inj ((exec_subReg_withFlagRule s x y _).symm.trans hp)
    obtain rfl := Host.Outcome.next.inj ((exec_subReg_withFlagRule s x y _).symm.trans hn)
    exact ⟨s.subtracted_coreView_of_ne x, s.subtracted_of_eq x⟩
  · obtain rfl := Host.Outcome.next.inj ((exec_subnReg_withFlagRule s x y _).symm.trans hp)
    obtain rfl := Host.Outcome.next.inj ((exec_subnReg_withFlagRule s x y _).symm.trans hn)
    exact ⟨fun hne => s.subtracted_coreView_of_ne x hne.symm, fun heq => s.subtracted_of_eq x heq.symm⟩

/-! ### What each instruction leaves unchanged (10_state.md R23, R28 to R31) -/

/-- `t` differs from `s` only where the instruction may write: its registers, I for ANNN, DT for FX15, ST for FX18, the
stack for 2NNN, the display for 00E0, and the fault log for a placeholder or a call without a free slot. -/
def KeepsFrame (i : Instr) (s t : State) : Prop :=
  SameVBut (writtenRegisters i) s t ∧ SameMemory s t ∧ SameSetup s t ∧
  (t.ireg ≠ s.ireg → ∃ nnn, i = .ldI nnn) ∧
  (t.dt ≠ s.dt → ∃ x, i = .ldDT x) ∧
  (t.st ≠ s.st → ∃ x, i = .ldST x) ∧
  (t.stack ≠ s.stack ∨ t.sp ≠ s.sp → ∃ nnn, i = .call nnn) ∧
  (t.display ≠ s.display → i = .cls) ∧
  (t.faultLog ≠ s.faultLog → isPlaceholder i = true ∨ ∃ nnn, i = .call nnn ∧ s.sp.val = 16)

/-- An instruction that writes only its registers and PC, and records an error only if it may. -/
theorem keepsFrame_of_frameRegisters {i : Instr} {s t : State} (hv : SameVBut (writtenRegisters i) s t)
    (hframe : FrameRegisters s t)
    (hlog : t.faultLog ≠ s.faultLog → isPlaceholder i = true ∨ ∃ nnn, i = .call nnn ∧ s.sp.val = 16) :
    KeepsFrame i s t := by
  obtain ⟨hindex, ⟨hdt, hst⟩, ⟨hstack, hsp⟩, hmemory, hdisplay, hsetup⟩ := hframe
  exact ⟨hv, hmemory, hsetup, fun h => absurd hindex h, fun h => absurd hdt h, fun h => absurd hst h,
    fun h => absurd ⟨hstack, hsp⟩ (not_and_or.2 h), fun h => absurd hdisplay h, hlog⟩

/-- An instruction that records an error writes nothing else. -/
theorem keepsFrame_recordError {i : Instr} {s : State} (e : CoreError)
    (hi : isPlaceholder i = true ∨ ∃ nnn, i = .call nnn ∧ s.sp.val = 16) : KeepsFrame i s (s.recordError e) :=
  keepsFrame_of_frameRegisters (fun _ _ => rfl)
    ⟨rfl, ⟨rfl, rfl⟩, ⟨rfl, rfl⟩, sameMemory_of_eq rfl rfl, rfl, rfl, rfl, rfl⟩ fun _ => hi

theorem keepsFrame_movePC (i : Instr) (s : State) (target : Word) : KeepsFrame i s (s.movePC target) := by
  obtain ⟨hv, hframe⟩ := s.movePC_framePC target
  exact keepsFrame_of_frameRegisters (fun r _ => hv r) hframe fun h => absurd rfl h

theorem keepsFrame_writeThenAdvance {i : Instr} (s : State) {x : Nibble} (b : Byte) (hi : writtenRegisters i = [x]) :
    KeepsFrame i s (s.writeThenAdvance x b) :=
  keepsFrame_of_frameRegisters (hi ▸ s.writeThenAdvance_sameVBut x b) (s.writeThenAdvance_frameRegisters x b)
    fun h => absurd rfl h

theorem keepsFrame_writeFlaggedThenAdvance {i : Instr} (s : State) {x : Nibble} (b : Byte) (flag : Bool)
    (hi : writtenRegisters i = [x, 0xF]) : KeepsFrame i s (s.writeFlaggedThenAdvance x b flag) :=
  keepsFrame_of_frameRegisters (hi ▸ s.writeFlaggedThenAdvance_sameVBut x b flag)
    (s.writeFlaggedThenAdvance_frameRegisters x b flag) fun h => absurd rfl h

/-- Every instruction ends in one of the named updates of the state, each within its frame. -/
theorem exec_keepsFrame (i : Instr) (s : State) : ∃ t, exec i s = .next t ∧ KeepsFrame i s t := by
  by_cases hi : isPlaceholder i = true
  · exact ⟨_, exec_placeholder hi s, keepsFrame_recordError _ (.inl hi)⟩
  cases i
  case cls => exact ⟨_, exec_cls s, fun _ _ => rfl, sameMemory_of_eq rfl rfl, ⟨rfl, rfl, rfl⟩, by simp [State.movePC]⟩
  case jp nnn => exact ⟨_, exec_jp nnn s, keepsFrame_movePC _ s _⟩
  case call nnn =>
    by_cases free : s.sp.val < 16
    · exact ⟨_, exec_call_of_free nnn free, fun _ _ => rfl, sameMemory_of_eq rfl rfl, ⟨rfl, rfl, rfl⟩,
        by simp [State.callTo, State.movePC]⟩
    · have hfull : s.sp.val = 16 := by have := s.sp.isLt; omega
      exact ⟨_, exec_call_of_full nnn hfull, keepsFrame_recordError _ (.inr ⟨nnn, rfl, hfull⟩)⟩
  case seByte x nn => exact ⟨_, exec_seByte x nn s, keepsFrame_movePC _ s _⟩
  case sneByte x nn => exact ⟨_, exec_sneByte x nn s, keepsFrame_movePC _ s _⟩
  case seReg x y => exact ⟨_, exec_seReg x y s, keepsFrame_movePC _ s _⟩
  case ldByte x nn => exact ⟨_, exec_ldByte x nn s, keepsFrame_writeThenAdvance s _ rfl⟩
  case addByte x nn => exact ⟨_, exec_addByte x nn s, keepsFrame_writeThenAdvance s _ rfl⟩
  case ldReg x y => exact ⟨_, exec_ldReg x y s, keepsFrame_writeThenAdvance s _ rfl⟩
  case orReg x y => exact ⟨_, exec_orReg x y s, keepsFrame_writeThenAdvance s _ rfl⟩
  case andReg x y => exact ⟨_, exec_andReg x y s, keepsFrame_writeThenAdvance s _ rfl⟩
  case xorReg x y => exact ⟨_, exec_xorReg x y s, keepsFrame_writeThenAdvance s _ rfl⟩
  case addReg x y => exact ⟨_, exec_addReg x y s, keepsFrame_writeFlaggedThenAdvance s _ _ rfl⟩
  case subReg x y => exact ⟨_, exec_subReg x y s, keepsFrame_writeFlaggedThenAdvance s _ _ rfl⟩
  case subnReg x y => exact ⟨_, exec_subnReg x y s, keepsFrame_writeFlaggedThenAdvance s _ _ rfl⟩
  case ldI nnn =>
    exact ⟨_, exec_ldI nnn s, fun _ _ => rfl, sameMemory_of_eq rfl rfl, ⟨rfl, rfl, rfl⟩, by simp [State.movePC]⟩
  case ldDT x =>
    exact ⟨_, exec_ldDT x s, fun _ _ => rfl, sameMemory_of_eq rfl rfl, ⟨rfl, rfl, rfl⟩, by simp [State.movePC]⟩
  case ldST x =>
    exact ⟨_, exec_ldST x s, fun _ _ => rfl, sameMemory_of_eq rfl rfl, ⟨rfl, rfl, rfl⟩, by simp [State.movePC]⟩
  all_goals exact absurd rfl hi

/-- Settles O32: `KeepsFrame` is the statement's own list. -/
theorem everyInstructionKeepsItsFrame : Obligations.EveryInstructionKeepsItsFrame := by
  unfold Obligations.EveryInstructionKeepsItsFrame
  exact exec_keepsFrame

/-! ### Where PC stands after each instruction (40_dispatch_cycle.md, R111) -/

/-- Every instruction leaves PC where the table of R111 says. -/
theorem exec_pcAfter (i : Instr) (s : State) : ∃ t, exec i s = .next t ∧ t.pc = pcAfter i s := by
  cases i
  case call nnn =>
    by_cases free : s.sp.val < 16
    · exact ⟨_, exec_call_of_free nnn free, (if_neg (by omega)).symm⟩
    · have hfull : s.sp.val = 16 := by have := s.sp.isLt; omega
      exact ⟨_, exec_call_of_full nnn hfull, (if_pos hfull).symm⟩
  case seByte x nn => exact ⟨_, exec_seByte x nn s, rfl⟩
  case sneByte x nn => exact ⟨_, exec_sneByte x nn s, ite_not ..⟩
  case seReg x y => exact ⟨_, exec_seReg x y s, rfl⟩
  all_goals exact ⟨_, rfl, rfl⟩

/-- Settles O33: the state after is the one whose PC the table gives. -/
theorem everyInstructionSequencesPC : Obligations.EveryInstructionSequencesPC := by
  unfold Obligations.EveryInstructionSequencesPC
  intro i s t h
  obtain ⟨u, hu, hpc⟩ := exec_pcAfter i s
  obtain rfl := Host.Outcome.next.inj (hu.symm.trans h)
  exact hpc

end Sys2Proof.Machine

namespace Sys2Proof.Machine

/-! ### The host commands and accesses, by what they answer (40_dispatch_cycle.md section 4, R112) -/

/-- FETCH only answers or only records an error (R102). -/
theorem State.fetchCommand_cases (s : State) (a : Int) :
    (∃ w, s.fetchCommand a = .next (s.respond (.word w))) ∨ ∃ e, s.fetchCommand a = .next (s.recordError e) := by
  cases hf : s.fetch a with
  | ok w => exact .inl ⟨w, State.fetchCommand_ok hf⟩
  | error e => exact .inr ⟨e, State.fetchCommand_error hf⟩

/-- DECODE only answers or only records an error (R106). -/
theorem State.decodeCommand_cases (s : State) :
    (∃ k, s.decodeCommand = .next (s.respond (.key k))) ∨ ∃ e, s.decodeCommand = .next (s.recordError e) := by
  cases hd : decodeKey s.config s.op with
  | some k => exact .inl ⟨k, State.decodeCommand_of_key hd⟩
  | none => exact .inr ⟨_, State.decodeCommand_of_no_key hd⟩

theorem State.runSysStep_getByte_some {s : State} {p : Int} {b : Byte} (h : s.getByte p = some b) :
    s.runSysStep (.getByte p) = .next (s.respond (.byte b)) := by
  simp only [State.runSysStep, h]

theorem State.runSysStep_getByte_none {s : State} {p : Int} (h : s.getByte p = none) :
    s.runSysStep (.getByte p) = .next (s.respond (.storeOutOfRange p)) := by
  simp only [State.runSysStep, h]

theorem State.runSysStep_setByte_valid {s : State} {p : Int} (b : Byte) (hp : 0 ≤ p ∧ p < s.config.memSize) :
    s.runSysStep (.setByte p b) = .next (({ s with mem := writeMem s.mem p.toNat b } : State).respond .ok) := by
  simp only [State.runSysStep, State.setByte_valid b hp, State.complete_eq]

theorem State.runSysStep_setByte_invalid {s : State} {p : Int} (b : Byte) (hp : ¬ (0 ≤ p ∧ p < s.config.memSize)) :
    s.runSysStep (.setByte p b) = .next (s.respond (.storeOutOfRange p)) := by
  simp only [State.runSysStep, State.setByte_invalid b hp]

/-- The check of a display access is that the coordinate is on the display (R59). -/
theorem State.validCell_iff_inDisplay (s : State) (x y : Int) : s.validCell x y = true ↔ s.InDisplay x y := by
  rw [State.validCell_iff, and_assoc]

theorem State.runSysStep_setPixel_valid {s : State} {x y : Int} (isOn : Bool) (h : s.InDisplay x y) :
    s.runSysStep (.setPixel x y isOn) = .next ((s.setPixel x y isOn).respond .ok) :=
  if_pos ((s.validCell_iff_inDisplay x y).2 h)

theorem State.runSysStep_setPixel_invalid {s : State} {x y : Int} (isOn : Bool) (h : ¬ s.InDisplay x y) :
    s.runSysStep (.setPixel x y isOn) = .fault (.displayOutOfRange x y) :=
  if_neg (mt (s.validCell_iff_inDisplay x y).1 h)

theorem State.runSysStep_getPixel_valid {s : State} {x y : Int} (h : s.InDisplay x y) :
    s.runSysStep (.getPixel x y) = .next (s.respond (.pixel (s.getPixel x y))) :=
  if_pos ((s.validCell_iff_inDisplay x y).2 h)

theorem State.runSysStep_getPixel_invalid {s : State} {x y : Int} (h : ¬ s.InDisplay x y) :
    s.runSysStep (.getPixel x y) = .fault (.displayOutOfRange x y) :=
  if_neg (mt (s.validCell_iff_inDisplay x y).1 h)

/-! ### The invariant (10_state.md R28, 20_memory.md R50 and R59) -/

/-- Settles O30: nothing is stored, no cell is lit, and I is 0. -/
theorem invAtReset : Obligations.InvAtReset := by
  unfold Obligations.InvAtReset
  decide

/-- The invariant reads only the byte store, the display, I and the configuration. -/
theorem State.Inv.congr {s t : State} (h : s.Inv) (hm : t.mem = s.mem) (hd : t.display = s.display)
    (hi : t.ireg = s.ireg) (hc : t.config = s.config) : t.Inv := by
  rwa [State.Inv, hm, hd, hi, hc]

theorem State.Inv.displayClear {s : State} (h : s.Inv) : s.displayClear.Inv := by
  obtain ⟨hwf, hcap, -, hindex⟩ := h
  exact ⟨hwf, hcap, rfl, hindex⟩

theorem State.Inv.setI {s : State} (h : s.Inv) (nnn : Addr) : (s.setI (nnn.setWidth 16)).Inv := by
  obtain ⟨hwf, hcap, hdisplay, -⟩ := h
  have hindex : (nnn.setWidth 16).toNat = nnn.toNat := BitVec.toNat_setWidth_of_le (by decide)
  exact ⟨hwf, hcap, hdisplay, hindex ▸ nnn.isLt⟩

theorem State.Inv.resetCore {s : State} (h : s.Inv) : s.resetCore.Inv := by
  obtain ⟨hwf, hcap, hdisplay, -⟩ := h
  exact ⟨hwf, hcap, hdisplay, by simp⟩

theorem State.Inv.writeMem {s : State} (h : s.Inv) {p : Int} (b : Byte) (hp : 0 ≤ p ∧ p < s.config.memSize) :
    ({ s with mem := writeMem s.mem p.toNat b } : State).Inv := by
  obtain ⟨hwf, hcap, hdisplay, hindex⟩ := h
  have hlt : p.toNat < s.config.memSize := by omega
  exact ⟨writeMem_wf _ b hwf, writeMem_withinCapacity b hcap hlt, hdisplay, hindex⟩

theorem State.Inv.setPixel {s : State} (h : s.Inv) {x y : Int} (isOn : Bool) (hxy : s.InDisplay x y) :
    (s.setPixel x y isOn).Inv := by
  obtain ⟨hwf, hcap, hdisplay, hindex⟩ := h
  exact ⟨hwf, hcap, State.setPixel_displayWf isOn hdisplay ((s.validCell_iff_inDisplay x y).2 hxy), hindex⟩

/-- An instruction keeps the invariant: only CLS writes the display and only LD I writes I. -/
theorem exec_inv {i : Instr} {s t : State} (hs : s.Inv) (h : exec i s = .next t) : t.Inv := by
  obtain ⟨hm, hc, -⟩ := exec_effect h
  obtain ⟨u, hu, -, -, -, hireg, -, -, -, hdisplay, -⟩ := exec_keepsFrame i s
  obtain rfl := Host.Outcome.next.inj (hu.symm.trans h)
  by_cases hd : u.display = s.display
  · by_cases hi : u.ireg = s.ireg
    · exact hs.congr hm hd hi hc
    · obtain ⟨nnn, rfl⟩ := hireg hi
      obtain rfl := Host.Outcome.next.inj ((exec_ldI nnn s).symm.trans h)
      exact hs.setI nnn
  · obtain rfl := hdisplay hd
    obtain rfl := Host.Outcome.next.inj ((exec_cls s).symm.trans h)
    exact hs.displayClear

theorem State.execute_inv {s t : State} {k : Key} (hs : s.Inv) (h : s.execute k = .next t) : t.Inv := by
  rcases s.execute_cases k with ⟨i, -, -, he⟩ | ⟨-, he⟩ | ⟨-, he⟩ <;> rw [he] at h
  · exact exec_inv hs h
  all_goals
    obtain rfl := Host.Outcome.next.inj h
    exact hs

theorem State.cycle_inv {s t : State} (hs : s.Inv) (h : s.cycle = .next t) : t.Inv := by
  rcases s.cycle_cases with ⟨e, -, hc⟩ | ⟨w, -, -, hc⟩ | ⟨w, k, -, -, -, hc⟩ <;> rw [hc] at h
  · obtain rfl := Host.Outcome.next.inj h
    exact hs
  · obtain rfl := Host.Outcome.next.inj h
    exact hs
  · exact State.execute_inv (s := s.setOP w) hs h

theorem State.runCommand_inv {s t : State} {c : HostCommand} (hs : s.Inv) (h : s.runCommand c = .next t) : t.Inv := by
  cases c
  case reset =>
    obtain rfl := Host.Outcome.next.inj h
    exact hs.resetCore
  case latch w =>
    obtain rfl := Host.Outcome.next.inj h
    exact hs
  case fetch a =>
    rcases s.fetchCommand_cases a with ⟨w, hf⟩ | ⟨e, hf⟩ <;> obtain rfl := Host.Outcome.next.inj (hf.symm.trans h) <;>
      exact hs
  case decode =>
    rcases s.decodeCommand_cases with ⟨k, hd⟩ | ⟨e, hd⟩ <;> obtain rfl := Host.Outcome.next.inj (hd.symm.trans h) <;>
      exact hs
  case execute k => exact State.execute_inv hs h
  case cycle => exact State.cycle_inv hs h

/-- Every system step keeps the invariant; a write lands only inside the store or the display (R50, R59). -/
theorem State.runSysStep_inv {s t : State} {e : SysStep} (hs : s.Inv) (h : s.runSysStep e = .next t) : t.Inv := by
  cases e
  case command c => exact State.runCommand_inv hs h
  case getByte p =>
    cases hb : s.getByte p with
    | some b =>
      obtain rfl := Host.Outcome.next.inj ((State.runSysStep_getByte_some hb).symm.trans h)
      exact hs
    | none =>
      obtain rfl := Host.Outcome.next.inj ((State.runSysStep_getByte_none hb).symm.trans h)
      exact hs
  case setByte p b =>
    by_cases hp : 0 ≤ p ∧ p < s.config.memSize
    · obtain rfl := Host.Outcome.next.inj ((State.runSysStep_setByte_valid b hp).symm.trans h)
      exact hs.writeMem b hp
    · obtain rfl := Host.Outcome.next.inj ((State.runSysStep_setByte_invalid b hp).symm.trans h)
      exact hs
  case tick =>
    obtain rfl := Host.Outcome.next.inj h
    exact hs.congr s.tick_mem s.tick_display s.tick_ireg s.tick_config
  case readState =>
    obtain rfl := Host.Outcome.next.inj h
    exact hs
  case clearDisplay =>
    obtain rfl := Host.Outcome.next.inj h
    exact hs.displayClear
  case setPixel x y isOn =>
    by_cases hxy : s.InDisplay x y
    · obtain rfl := Host.Outcome.next.inj ((State.runSysStep_setPixel_valid isOn hxy).symm.trans h)
      exact hs.setPixel isOn hxy
    · cases (State.runSysStep_setPixel_invalid isOn hxy).symm.trans h
  case getPixel x y =>
    by_cases hxy : s.InDisplay x y
    · obtain rfl := Host.Outcome.next.inj ((State.runSysStep_getPixel_valid hxy).symm.trans h)
      exact hs
    · cases (State.runSysStep_getPixel_invalid hxy).symm.trans h

/-- Settles O29, along the system step that comes next. -/
theorem stepKeepsInv : Obligations.StepKeepsInv := by
  unfold Obligations.StepKeepsInv
  intro s t hs h
  cases hpend : s.pending with
  | nil => exact State.cycle_inv hs ((step_of_no_pending hpend).symm.trans h)
  | cons e rest =>
    exact State.runSysStep_inv (s := { s with pending := rest }) hs ((step_of_pending hpend).symm.trans h)

/-! ### What stops the machine (20_memory.md R59, D24) -/

theorem State.execute_next (s : State) (k : Key) : ∃ t, s.execute k = .next t := by
  rcases s.execute_cases k with ⟨i, -, -, he⟩ | ⟨-, he⟩ | ⟨-, he⟩
  · rw [he]
    exact exec_next i s
  · exact ⟨_, he⟩
  · exact ⟨_, he⟩

theorem State.cycle_next (s : State) : ∃ t, s.cycle = .next t := by
  rcases s.cycle_cases with ⟨e, -, hc⟩ | ⟨w, -, -, hc⟩ | ⟨w, k, -, -, -, hc⟩
  · exact ⟨_, hc⟩
  · exact ⟨_, hc⟩
  · rw [hc]
    exact State.execute_next _ k

/-- Every host command is answered by a next state (R101). -/
theorem State.runCommand_next (s : State) (c : HostCommand) : ∃ t, s.runCommand c = .next t := by
  cases c
  case reset => exact ⟨_, rfl⟩
  case latch w => exact ⟨_, rfl⟩
  case fetch a => rcases s.fetchCommand_cases a with ⟨w, hf⟩ | ⟨e, hf⟩ <;> exact ⟨_, hf⟩
  case decode => rcases s.decodeCommand_cases with ⟨k, hd⟩ | ⟨e, hd⟩ <;> exact ⟨_, hd⟩
  case execute k => exact s.execute_next k
  case cycle => exact s.cycle_next

/-- A system step has a next state, or is a display access outside the display and faults with its coordinate. -/
theorem State.runSysStep_next_or_fault (s : State) (e : SysStep) :
    (∃ t, s.runSysStep e = .next t) ∨
    ∃ x y : Int, s.runSysStep e = .fault (.displayOutOfRange x y) ∧ ¬ s.InDisplay x y ∧
      ((∃ isOn, e = .setPixel x y isOn) ∨ e = .getPixel x y) := by
  cases e
  case command c => exact .inl (s.runCommand_next c)
  case getByte p =>
    cases hb : s.getByte p with
    | some b => exact .inl ⟨_, State.runSysStep_getByte_some hb⟩
    | none => exact .inl ⟨_, State.runSysStep_getByte_none hb⟩
  case setByte p b =>
    by_cases hp : 0 ≤ p ∧ p < s.config.memSize
    · exact .inl ⟨_, State.runSysStep_setByte_valid b hp⟩
    · exact .inl ⟨_, State.runSysStep_setByte_invalid b hp⟩
  case tick => exact .inl ⟨_, rfl⟩
  case readState => exact .inl ⟨_, rfl⟩
  case clearDisplay => exact .inl ⟨_, rfl⟩
  case setPixel x y isOn =>
    by_cases hxy : s.InDisplay x y
    · exact .inl ⟨_, State.runSysStep_setPixel_valid isOn hxy⟩
    · exact .inr ⟨x, y, State.runSysStep_setPixel_invalid isOn hxy, hxy, .inl ⟨isOn, rfl⟩⟩
  case getPixel x y =>
    by_cases hxy : s.InDisplay x y
    · exact .inl ⟨_, State.runSysStep_getPixel_valid hxy⟩
    · exact .inr ⟨x, y, State.runSysStep_getPixel_invalid hxy, hxy, .inr rfl⟩

/-- A host display access comes next, at a coordinate outside the display. -/
def State.BadAccessNext (s : State) (x y : Int) : Prop :=
  ¬ s.InDisplay x y ∧
    ∃ rest, (∃ isOn, s.pending = .setPixel x y isOn :: rest) ∨ s.pending = .getPixel x y :: rest

/-- A step has a next state, or a bad display access comes next and the step faults with its coordinate. -/
theorem step_next_or_fault (s : State) :
    (∃ t, step s = .next t) ∨ ∃ x y, step s = .fault (.displayOutOfRange x y) ∧ s.BadAccessNext x y := by
  cases hpend : s.pending with
  | nil =>
    rw [step_of_no_pending hpend]
    exact .inl s.cycle_next
  | cons e rest =>
    rw [step_of_pending hpend]
    refine (State.runSysStep_next_or_fault _ e).imp id ?_
    rintro ⟨x, y, hfault, hout, ⟨isOn, rfl⟩ | rfl⟩
    · exact ⟨x, y, hfault, hout, rest, .inl ⟨isOn, hpend⟩⟩
    · exact ⟨x, y, hfault, hout, rest, .inr hpend⟩

theorem step_of_badAccessNext {s : State} {x y : Int} (h : s.BadAccessNext x y) :
    step s = .fault (.displayOutOfRange x y) := by
  obtain ⟨hout, rest, ⟨isOn, hpend⟩ | hpend⟩ := h <;> rw [step_of_pending hpend]
  · exact State.runSysStep_setPixel_invalid isOn hout
  · exact State.runSysStep_getPixel_invalid hout

/-- Settles O28: every step but a bad display access has a next state, and that access faults. -/
theorem onlyBadDisplayAccessStops : Obligations.OnlyBadDisplayAccessStops := by
  unfold Obligations.OnlyBadDisplayAccessStops
  refine ⟨fun s r => ⟨fun h => ?_, ?_⟩, fun s r h => ?_⟩
  · rcases step_next_or_fault s with ⟨t, ht⟩ | ⟨x, y, hfault, hbad⟩
    · cases ht.symm.trans h
    · cases hfault.symm.trans h
      exact ⟨x, y, rfl, hbad⟩
  · rintro ⟨x, y, rfl, hbad⟩
    exact step_of_badAccessNext hbad
  · rcases step_next_or_fault s with ⟨t, ht⟩ | ⟨x, y, hfault, -⟩
    · cases ht.symm.trans h
    · cases hfault.symm.trans h

/-! ### The host's accesses (20_memory.md sections 1 and 4) -/

/-- Settles O11: a read after a write, and both failures, at every capacity. -/
theorem byteStoreContract : Obligations.ByteStoreContract := by
  unfold Obligations.ByteStoreContract
  rintro s p b ⟨hwf, -⟩
  refine ⟨fun hlo hhi => ?_, fun hout => ?_⟩
  · exact ⟨_, State.setByte_valid b ⟨hlo, hhi⟩, State.getByte_after_write hwf b ⟨hlo, hhi⟩⟩
  · have hinvalid : ¬ (0 ≤ p ∧ p < s.config.memSize) := by omega
    exact ⟨State.setByte_invalid b hinvalid, State.getByte_invalid hinvalid⟩

/-- Settles O10, by which of the two reads fails first. -/
theorem fetchReportsFirstBadPosition : Obligations.FetchReportsFirstBadPosition := by
  unfold Obligations.FetchReportsFirstBadPosition
  refine fun s a => ⟨fun hout => ?_, fun hlo htop => ?_⟩
  · have hfirst : s.getByte a = none := State.getByte_invalid (by omega)
    simp only [State.fetch, hfirst]
  · have hfirst := State.getByte_valid (s := s) (p := a) (by omega)
    have hsecond : s.getByte (a + 1) = none := State.getByte_invalid (by omega)
    simp only [State.fetch, hfirst, hsecond]

/-- A step that only takes the first pending step off and answers `r` leaves everything but the response. -/
theorem step_respond_frame {s : State} {rest : List SysStep} {r : Response}
    (h : step s = .next (({ s with pending := rest } : State).respond r)) :
    ∃ t, step s = .next t ∧ t.pending = rest ∧ t.coreView = s.coreView ∧ SameOutside s t ∧ t.faultLog = s.faultLog ∧
      t.response = r :=
  ⟨_, h, rfl, rfl, sameOutside_of_eq rfl rfl rfl, rfl, rfl⟩

theorem getByte_with_pending (s : State) (rest : List SysStep) (p : Int) :
    ({ s with pending := rest } : State).getByte p = s.getByte p :=
  State.getByte_congr rfl rfl p

/-- Settles O13: each of these accesses only takes itself off the list and answers. -/
theorem hostReadsLeaveTheCore : Obligations.HostReadsLeaveTheCore := by
  unfold Obligations.HostReadsLeaveTheCore
  refine fun s rest => ⟨fun hpend => step_of_pending hpend, fun p hpend => ?_, fun p b hpend hout => ?_⟩
  · cases hb : s.getByte p with
    | some b =>
      obtain ⟨t, ht, hrest, hcore, houtside, hlog, hresponse⟩ := step_respond_frame ((step_of_pending hpend).trans
        (State.runSysStep_getByte_some ((getByte_with_pending s rest p).trans hb)))
      refine ⟨t, ht, hrest, hcore, houtside, hlog, ?_, nofun⟩
      rintro _ ⟨⟩
      exact hresponse
    | none =>
      obtain ⟨t, ht, hrest, hcore, houtside, hlog, hresponse⟩ := step_respond_frame ((step_of_pending hpend).trans
        (State.runSysStep_getByte_none ((getByte_with_pending s rest p).trans hb)))
      exact ⟨t, ht, hrest, hcore, houtside, hlog, nofun, fun _ => hresponse⟩
  · have hinvalid : ¬ (0 ≤ p ∧ p < s.config.memSize) := by omega
    exact step_respond_frame ((step_of_pending hpend).trans (State.runSysStep_setByte_invalid b hinvalid))

/-- Settles O14: a clear and a setPixel write the display alone, and a getPixel only answers. -/
theorem hostDrawsOnlyOnTheDisplay : Obligations.HostDrawsOnlyOnTheDisplay := by
  unfold Obligations.HostDrawsOnlyOnTheDisplay
  refine fun s rest => ⟨fun hpend => ?_, fun x y isOn hpend hxy => ?_, fun x y hpend hxy => ?_⟩
  · exact ⟨_, step_of_pending hpend, rfl, rfl, sameMemory_of_eq rfl rfl, rfl, rfl, fun _ _ => rfl⟩
  · refine ⟨_, (step_of_pending hpend).trans (State.runSysStep_setPixel_valid isOn hxy), rfl, rfl,
      sameMemory_of_eq rfl rfl, rfl, rfl, fun x' y' hxy' => ?_⟩
    have hvalid := (s.validCell_iff_inDisplay x y).2 hxy
    exact State.getPixel_setPixel isOn hvalid ((s.validCell_iff_inDisplay x' y').2 hxy')
  · exact step_respond_frame ((step_of_pending hpend).trans (State.runSysStep_getPixel_valid hxy))

end Sys2Proof.Machine

namespace Sys2Proof

/-! ### The constraint on PLACEHOLDER_KEYS (R79, R223) -/

/-- Every implemented key keeps exactly bits its mask keeps (R76). -/
theorem implementedKey_and_mask {row : Key × Word} (h : row ∈ implementedKeys) : row.1 &&& row.2 = row.1 := by
  revert row
  rw [← List.forall_iff_forall_mem]
  decide

/-- The Boolean test of a pattern, a mask and a key is the rule's own question, whether some word of the pattern has
that image; such a word is the key joined with the image (R79). -/
theorem imageOfPattern_iff {k km : Word} (hk : k &&& km = k) (m p : Word) :
    imageOfPattern k km m p = true ↔ ∃ w : Word, w &&& km = k ∧ w &&& m = p := by
  simp only [imageOfPattern, Bool.and_eq_true, beq_iff_eq]
  constructor
  · rintro ⟨hout, hagree⟩
    have hkeep : p &&& m = p := by
      calc p &&& m = (p &&& m) ||| (p &&& ~~~m) := by rw [hout]; simp
        _ = p := by rw [← BitVec.and_or_distrib_left, BitVec.or_not_self, BitVec.and_allOnes]
    refine ⟨k ||| p, ?_, ?_⟩
    · calc (k ||| p) &&& km = k ||| (k &&& m) := by rw [BitVec.and_or_distrib_right, hk, hagree]
        _ = k := by ext i; simp +contextual
    · calc (k ||| p) &&& m = (p &&& km) ||| p := by rw [BitVec.and_or_distrib_right, ← hagree, hkeep]
        _ = p := by ext i; simp +contextual
  · rintro ⟨w, rfl, rfl⟩
    constructor
    · simp [BitVec.and_assoc]
    · rw [BitVec.and_assoc, BitVec.and_assoc, BitVec.and_comm m km]

/-- The check of a configuration is R79's own condition, over every word of every implemented pattern. -/
theorem placeholdersAllowed_iff (cfg : Config) :
    placeholdersAllowed cfg = true ↔ ∀ row ∈ implementedKeys, ∀ w : Word, w &&& row.2 = row.1 →
      ∀ m ∈ masksBefore cfg.decodeOrder row.2, w &&& m ∉ cfg.placeholderKeys := by
  constructor
  · rintro h ⟨k, km⟩ hrow w hw m hm
    exact image_not_mem_placeholderKeys h hrow hw hm
  · intro h
    simp only [placeholdersAllowed, List.all_eq_true, Bool.not_eq_true', Bool.eq_false_iff]
    intro row hrow m hm p hp himage
    obtain ⟨w, hw, rfl⟩ := (imageOfPattern_iff (implementedKey_and_mask hrow) m p).1 himage
    exact h row hrow w hw m hm hp

/-- Settles O6: the check against the rule's condition, and 0x00E0, whose image under the first mask is 0x0000. -/
theorem placeholderConstraintIsChecked : Obligations.PlaceholderConstraintIsChecked := by
  unfold Obligations.PlaceholderConstraintIsChecked
  refine ⟨placeholdersAllowed_iff, by decide, by decide, rfl, fun keys hzero => ?_⟩
  rw [Bool.eq_false_iff, Ne, placeholdersAllowed_iff]
  have hfirst : maskM4 ∈ masksBefore .narrowFirst maskM12 := by decide
  exact fun h => h (0x00E0, maskM12) (by decide) 0x00E0 rfl maskM4 hfirst hzero

/-- An implemented key has an implemented image under M4, or its pattern is one of the three of mask M12 and no coarser
image of it is implemented (R76). -/
theorem implementedKey_first_or_last {row : Key × Word} (h : row ∈ implementedKeys) :
    tableAt Config.normative (row.1 &&& maskM4) = .handler ∨
    row.2 = maskM12 ∧ tableAt Config.normative (row.1 &&& maskM4) ≠ .handler ∧
      tableAt Config.normative (row.1 &&& maskM8) ≠ .handler := by
  revert row
  rw [← List.forall_iff_forall_mem]
  decide

/-- The key decode finds is one of the word's three images (R78). -/
theorem decodeKey_is_image {cfg : Config} {w : Word} {k : Key} (h : decodeKey cfg w = some k) :
    w &&& maskM4 = k ∨ w &&& maskM8 = k ∨ w &&& maskM12 = k := by
  have hmem := List.mem_of_find?_eq_some h
  cases ho : cfg.decodeOrder <;> simp [ho, decodeMasks] at hmem <;> tauto

/-- The key decode finds has the word's leading nibble (R75). -/
theorem decodeKey_and_maskM4 {cfg : Config} {w : Word} {k : Key} (h : decodeKey cfg w = some k) :
    k &&& maskM4 = w &&& maskM4 := by
  rcases decodeKey_is_image h with rfl | rfl | rfl
  · rw [BitVec.and_assoc, BitVec.and_self]
  · exact and_and_maskM4 (by simp) w
  · exact and_and_maskM4 (by simp) w

/-- A key that is neither implemented nor a placeholder is absent. -/
theorem tableAt_absent_of_not {cfg : Config} {k : Key} (hnot : tableAt Config.normative k ≠ .handler)
    (h : k ∉ cfg.placeholderKeys) : tableAt cfg k = .absent := by
  cases ht : tableAt cfg k with
  | absent => rfl
  | handler => exact absurd ((tableAt_handler_congr cfg Config.normative k).1 ht) hnot
  | unimpl => exact absurd ((tableAt_unimpl_iff cfg k).1 ht).2 h

/-- Under NARROW_FIRST every word of a pattern of mask M12 decodes to its key, if no coarser image is implemented: R79
keeps the placeholders from taking it. -/
theorem decodeKey_of_byte_pattern {cfg : Config} (ho : cfg.decodeOrder = .narrowFirst)
    (hallowed : placeholdersAllowed cfg = true) {k w : Word} (hrow : (k, maskM12) ∈ implementedKeys)
    (h4 : tableAt Config.normative (w &&& maskM4) ≠ .handler) (h8 : tableAt Config.normative (w &&& maskM8) ≠ .handler)
    (hw : w &&& maskM12 = k) : decodeKey cfg w = some k := by
  have hbefore : masksBefore cfg.decodeOrder maskM12 = [maskM4, maskM8] := by rw [ho]; decide
  have hfree {m : Word} (hm : m ∈ [maskM4, maskM8]) : w &&& m ∉ cfg.placeholderKeys :=
    image_not_mem_placeholderKeys hallowed hrow hw (hbefore ▸ hm)
  have hhandler : tableAt cfg k = .handler :=
    (tableAt_handler_iff cfg k).2 (List.any_eq_true.2 ⟨_, hrow, beq_self_eq_true k⟩)
  rw [decodeKey_narrowFirst ho, tableAt_absent_of_not h4 (hfree (by simp)), tableAt_absent_of_not h8 (hfree (by simp)),
    hw, hhandler]
  rfl

/-- Settles O7: a handler's key is either the image under the first mask, which no placeholder precedes, or the image
under the last one, which the constraint keeps the placeholders from hiding. -/
theorem handlersReachedWhateverPlaceholders : Obligations.HandlersReachedWhateverPlaceholders := by
  unfold Obligations.HandlersReachedWhateverPlaceholders
  intro cfg cfg' ho ho' hwf w k hk hhandler
  have hcongr (cfg₁ cfg₂ : Config) (k : Key) := (tableAt_handler_congr cfg₁ cfg₂ k).1
  refine ⟨?_, hcongr _ _ _ hhandler⟩
  obtain ⟨row, hrow, rfl⟩ : ∃ row ∈ implementedKeys, row.1 = k := by simpa using (tableAt_handler_iff cfg k).1 hhandler
  have hw4 := decodeKey_and_maskM4 hk
  rcases implementedKey_first_or_last hrow with hfirst | ⟨hmask, h4, h8⟩
  · rw [hw4] at hfirst
    have hpresent (c : Config) : tableAt c (w &&& maskM4) ≠ .absent := by simp [hcongr _ c _ hfirst]
    rw [← hk, decodeKey_narrowFirst_of_present ho (hpresent _), decodeKey_narrowFirst_of_present ho' (hpresent _)]
  · have hself : tableAt Config.normative row.1 = .handler := hcongr _ _ _ hhandler
    have hw12 : w &&& maskM12 = row.1 := by
      rcases decodeKey_is_image hk with hw | hw | hw
      · exact absurd (by rw [hw4, hw, hself]) h4
      · rw [← hw, BitVec.and_assoc, BitVec.and_self, hw] at h8
        exact absurd hself h8
      · exact hw
    have hw8 : row.1 &&& maskM8 = w &&& maskM8 := by rw [← hw12, and_maskM12_and_maskM8]
    obtain ⟨hallowed, -⟩ : placeholdersAllowed cfg' = true ∧ placeholdersDisjoint cfg' = true := by
      simpa [Config.wellFormed] using hwf
    exact decodeKey_of_byte_pattern ho' hallowed (hmask ▸ hrow) (hw4 ▸ h4) (hw8 ▸ h8) hw12

end Sys2Proof

namespace Sys2Proof.Machine

/-! ### What a CYCLE does with the decoded instruction (40_dispatch_cycle.md) -/

/-- Settles O1, word by word. -/
theorem sampleWordsDecode : Obligations.SampleWordsDecode := by
  unfold Obligations.SampleWordsDecode
  decide

/-- A CYCLE of a word that decodes runs its instruction on the state with the command taken off and OP stored (R105). -/
theorem step_of_cycleNext_decode {s : State} {w : Word} {i : Instr} (hnext : s.CycleNext)
    (hf : s.fetch s.pcPosition = .ok w) (hd : decode s.config w = .ok i) : step s = exec i (s.dropHead.setOP w) := by
  obtain ⟨k, hk, hi⟩ := decode_ok hd
  calc step s = s.dropHead.runWord w := step_of_cycleNext_fetch hnext hf
    _ = (s.dropHead.setOP w).execute k := State.runWord_of_key hk
    _ = exec i (s.dropHead.setOP w) := State.execute_instr (decodeKey_present hk) hi

/-- Settles O15: storing the word in OP is the only thing done before the instruction. -/
theorem stepRunsDecodedInstruction : Obligations.StepRunsDecodedInstruction := by
  unfold Obligations.StepRunsDecodedInstruction
  exact fun s w i => step_of_cycleNext_decode

/-- Settles O35: the word decodes to LD Vx, Vy with its own x and y, which is one register write. -/
theorem normativeCycleCopiesForEveryEightWord : Obligations.NormativeCycleCopiesForEveryEightWord := by
  unfold Obligations.NormativeCycleCopiesForEveryEightWord
  intro s w hnext ho hf hlead
  have hdecode : decode s.config w = .ok (.ldReg (fieldX w) (fieldY w)) :=
    decode_of_key (ldRegCopies.1 s.config w ho hlead) rfl
  obtain ⟨t, ht, hcopy, hregs, hpc, ⟨hindex, htimers, hstack, hmemory, hdisplay, hop, hconfig, hpending⟩, hok⟩ :=
    exec_writes_register (exec_ldReg (fieldX w) (fieldY w) (s.dropHead.setOP w))
  exact ⟨t, (step_of_cycleNext_decode hnext hf hdecode).trans ht, hpending, hcopy, hregs, hpc, hop, hindex, htimers,
    hstack, ⟨hmemory, hdisplay, hconfig⟩, hok⟩

/-! ### Single host commands and the tick (40_dispatch_cycle.md, 43_index_and_timers.md, 70_reset_and_hazards.md) -/

/-- Settles O23: LATCH only stores its word in OP. -/
theorem latchWritesOnlyOP : Obligations.LatchWritesOnlyOP := by
  unfold Obligations.LatchWritesOnlyOP
  intro s w rest hpend
  exact ⟨_, step_of_pending hpend, rfl, rfl, sameOutside_of_eq rfl rfl rfl, rfl, rfl⟩

/-- Settles O26: each core state item is the constant RESET gives it. -/
theorem resetRestoresCoreState : Obligations.ResetRestoresCoreState := by
  unfold Obligations.ResetRestoresCoreState
  intro s rest hpend
  refine ⟨_, step_of_pending hpend, rfl, sameOutside_of_eq rfl rfl rfl, ⟨rfl, rfl⟩, fun r => ?_, rfl, rfl, fun j => ?_,
    rfl, rfl, rfl, rfl⟩
  · exact Vector.getElem_replicate r.isLt
  · exact Vector.getElem_replicate j.isLt

/-- Settles O27: the default tick counts both timers down and is framed by the laws of `tick`. -/
theorem tickCountsBothTimersDown : Obligations.TickCountsBothTimersDown := by
  unfold Obligations.TickCountsBothTimersDown
  intro s rest hpend hdefault
  obtain ⟨hdt, hst⟩ := State.tick_default { s with pending := rest } hdefault
  refine ⟨_, step_of_pending hpend, State.tick_pending _, hdt, hst, ?_,
    sameOutside_of_eq (State.tick_mem _) (State.tick_display _) (State.tick_config _), State.tick_faultLog _,
    State.tick_response _⟩
  simp [State.coreView]

/-! ### Errors (60_exceptions.md) -/

/-- A core transaction runs a host command on the state with that command taken off; the run loop's is CYCLE
(R100, R113). -/
theorem step_of_coreTransaction {s : State} (h : s.CoreTransaction) :
    ∃ c, step s = s.dropHead.runCommand c ∧ (c = .cycle → s.CycleNext) := by
  rcases h with hnone | ⟨c, rest, hpend⟩
  · exact ⟨.cycle, step_of_cycleNext (.inl hnone), fun _ => .inl hnone⟩
  · refine ⟨c, ?_, ?_⟩
    · simp [step, State.runNext, State.runSysStep, hpend]
    · rintro rfl
      exact .inr ⟨rest, hpend⟩

/-- Settles O17: a command that adds to the fault log has recorded its error in the state as it stood, or, past the
fetch of a CYCLE, in that state with OP stored. -/
theorem errorsArePrecise : Obligations.ErrorsArePrecise := by
  unfold Obligations.ErrorsArePrecise
  intro s t hcore hstep hlog
  obtain ⟨c, hrun, hcycle⟩ := step_of_coreTransaction hcore
  obtain ⟨-, -, -, hsame | ⟨e, rfl | ⟨hc, w, hf, rfl⟩⟩⟩ := State.runCommand_effect (hrun.symm.trans hstep)
  · exact absurd hsame hlog
  · exact ⟨⟨e, rfl, rfl⟩, sameOutside_of_eq rfl rfl rfl, rfl, .inl rfl⟩
  · exact ⟨⟨e, rfl, rfl⟩, sameOutside_of_eq rfl rfl rfl, rfl, .inr ⟨hcycle hc, w, hf, rfl⟩⟩

/-- Settles O19: the log is kept or has the answered error appended. -/
theorem faultLogIsNeverCleared : Obligations.FaultLogIsNeverCleared := by
  unfold Obligations.FaultLogIsNeverCleared
  intro s t hstep
  obtain ⟨-, -, hlog⟩ := step_effect hstep
  exact hlog.imp id fun ⟨e, hresponse, happended⟩ => ⟨e, happended, hresponse⟩

theorem State.recordError_inj {s : State} {e e' : CoreError} (h : s.recordError e = s.recordError e') : e = e' :=
  Response.err.inj (congrArg State.response h)

/-- Whether an instruction fails, and how, depends on PC, SP and OP alone (R137, R220). -/
theorem exec_error_congr {i : Instr} {s s' : State} {e : CoreError} (hpc : s'.pc = s.pc) (hsp : s'.sp = s.sp)
    (hop : s'.op = s.op) (h : exec i s = .next (s.recordError e)) : exec i s' = .next (s'.recordError e) := by
  rcases exec_cases i s with ⟨t, ht, ⟨-, hlog⟩, -⟩ | ⟨hi, ht⟩ | ⟨nnn, rfl, hfull, ht⟩ <;>
    have heq := Host.Outcome.next.inj (ht.symm.trans h)
  · subst heq
    exact absurd hlog (s.recordError_respondsErr e).faultLog_ne
  · rw [← State.recordError_inj heq, ← hop]
    exact exec_placeholder hi s'
  · rw [← State.recordError_inj heq, ← hpc]
    exact exec_call_of_full nnn (hsp ▸ hfull)

/-- The same for the execution of a key, which also reads the table (R103). -/
theorem State.execute_error_congr {s s' : State} {k : Key} {e : CoreError} (hc : s'.config = s.config)
    (hpc : s'.pc = s.pc) (hsp : s'.sp = s.sp) (hop : s'.op = s.op) (h : s.execute k = .next (s.recordError e)) :
    s'.execute k = .next (s'.recordError e) := by
  rcases s.execute_cases k with ⟨i, hk, hi, ht⟩ | ⟨hk, ht⟩ | ⟨hk, ht⟩
  · rw [State.execute_instr (by simp [hc, hk]) (hop ▸ hi)]
    exact exec_error_congr hpc hsp hop (ht.symm.trans h)
  · rw [← State.recordError_inj (Host.Outcome.next.inj (ht.symm.trans h)), ← hop]
    exact State.execute_unimpl (hc ▸ hk)
  · rw [← State.recordError_inj (Host.Outcome.next.inj (ht.symm.trans h))]
    exact State.execute_absent (hc ▸ hk)

/-- The same for a fetched word, which is stored in OP first (R105). -/
theorem State.runWord_error_congr {s s' : State} {w : Word} {e : CoreError} (hc : s'.config = s.config)
    (hpc : s'.pc = s.pc) (hsp : s'.sp = s.sp) (h : s.runWord w = .next ((s.setOP w).recordError e)) :
    s'.runWord w = .next ((s'.setOP w).recordError e) := by
  cases hd : decodeKey s.config w with
  | none =>
    rw [← State.recordError_inj (Host.Outcome.next.inj ((State.runWord_of_no_key hd).symm.trans h))]
    exact State.runWord_of_no_key (hc ▸ hd)
  | some k =>
    rw [State.runWord_of_key (hc ▸ hd)]
    exact State.execute_error_congr (s := s.setOP w) hc hpc hsp rfl ((State.runWord_of_key hd).symm.trans h)

/-- A CYCLE that fails past its fetch fails the same way from every state with that byte store, table, PC and SP. -/
theorem State.cycle_error_congr {s s' : State} {w : Word} {e : CoreError} (hm : s'.mem = s.mem)
    (hc : s'.config = s.config) (hpc : s'.pc = s.pc) (hsp : s'.sp = s.sp) (hf : s.fetch s.pcPosition = .ok w)
    (h : s.cycle = .next ((s.setOP w).recordError e)) : s'.cycle = .next ((s'.setOP w).recordError e) := by
  have hf' : s'.fetch s'.pcPosition = .ok w := by
    rw [State.pcPosition, hpc]
    exact (State.fetch_congr hm hc _).trans hf
  rw [State.cycle_of_fetch hf']
  exact State.runWord_error_congr hc hpc hsp ((State.cycle_of_fetch hf).symm.trans h)

/-- An error of a CYCLE whose word OP holds already leaves the core state as it stands (R245). -/
theorem State.recordError_again (t : State) {w : Word} (e : CoreError) (hop : t.op = w) :
    RespondsErr e t ((t.dropHead.setOP w).recordError e) ∧
      ((t.dropHead.setOP w).recordError e).coreView = t.coreView := by
  subst hop
  exact ⟨⟨rfl, rfl⟩, rfl⟩

/-- Settles O18: the failing CYCLE changed at most OP, which the next one stores again, so it fetches and fails
alike. -/
theorem repeatedCycleFailsTheSameWay : Obligations.RepeatedCycleFailsTheSameWay := by
  unfold Obligations.RepeatedCycleFailsTheSameWay
  intro s t e hnext hstep herr hagain
  have hcycle : s.dropHead.cycle = .next t := (step_of_cycleNext hnext).symm.trans hstep
  rw [step_of_cycleNext hagain]
  obtain ⟨-, -, -, hsame | ⟨e', -, ⟨hf, rfl⟩ | ⟨w, hf, rfl⟩⟩⟩ := State.cycle_effect hcycle
  · exact absurd hsame herr.faultLog_ne
  · obtain rfl := Response.err.inj herr.1
    exact ⟨_, State.cycle_of_fetch_error hf, ⟨rfl, rfl⟩, rfl⟩
  · obtain rfl := Response.err.inj herr.1
    exact ⟨_, State.cycle_error_congr (s := s.dropHead) rfl rfl rfl rfl hf hcycle, State.recordError_again _ _ rfl⟩

/-! ### PC in a run of CYCLEs (10_state.md R27) -/

/-- An instruction leaves PC, advances it by two or four, or sets it to an address. -/
theorem pcAfter_cases (i : Instr) (s : State) :
    pcAfter i s = s.pc ∨ pcAfter i s = s.pc + 2 ∨ pcAfter i s = s.pc + 4 ∨
      ∃ nnn : Addr, pcAfter i s = nnn.setWidth 16 := by
  cases i
  case seByte x nn => by_cases h : s.readV x = nn <;> simp [pcAfter, h]
  case sneByte x nn => by_cases h : s.readV x = nn <;> simp [pcAfter, h]
  case seReg x y => by_cases h : s.readV x = s.readV y <;> simp [pcAfter, h]
  case jp nnn => exact .inr (.inr (.inr ⟨nnn, rfl⟩))
  case call nnn =>
    by_cases h : s.sp.val = 16
    · exact .inl (if_pos h)
    · exact .inr (.inr (.inr ⟨nnn, if_neg h⟩))
  all_goals simp [pcAfter]

/-- Where PC stands after a CYCLE: where it stood, or where the instruction of the fetched word puts it (R111). -/
theorem State.cycle_pc {s t : State} (h : s.cycle = .next t) :
    t.pc = s.pc ∨ ∃ w i, s.fetch s.pcPosition = .ok w ∧ t.pc = pcAfter i (s.setOP w) := by
  rcases s.cycle_cases with ⟨e, -, hc⟩ | ⟨w, -, -, hc⟩ | ⟨w, k, hf, -, -, hc⟩ <;> rw [hc] at h
  · obtain rfl := Host.Outcome.next.inj h
    exact .inl rfl
  · obtain rfl := Host.Outcome.next.inj h
    exact .inl rfl
  · rcases (s.setOP w).execute_cases k with ⟨i, -, -, he⟩ | ⟨-, he⟩ | ⟨-, he⟩ <;> rw [he] at h
    · exact .inr ⟨w, i, hf, everyInstructionSequencesPC i _ t h⟩
    · obtain rfl := Host.Outcome.next.inj h
      exact .inl rfl
    · obtain rfl := Host.Outcome.next.inj h
      exact .inl rfl

/-- A fetch at PC leaves room for its two bytes, so no advance passes MEM_SIZE + 2 and none wraps (R27). -/
theorem pcAfter_le_of_fetch {s : State} {w : Word} (i : Instr) (hlo : 4093 ≤ s.config.memSize)
    (hhi : s.config.memSize ≤ 4096) (hf : s.fetch s.pcPosition = .ok w) :
    (pcAfter i (s.setOP w)).toNat ≤ s.config.memSize + 2 := by
  obtain ⟨-, hroom⟩ := State.fetch_position hf
  rw [State.pcPosition] at hroom
  rcases pcAfter_cases i (s.setOP w) with h | h | h | ⟨nnn, h⟩ <;> rw [h]
  · rw [State.setOP_pc]
    omega
  · rw [State.setOP_pc]
    bv_omega
  · rw [State.setOP_pc]
    bv_omega
  · rw [BitVec.toNat_setWidth_of_le (by decide)]
    omega

/-- Settles O31: PC stays, or a fetch at PC bounds where the instruction puts it. -/
theorem cycleKeepsPCBelowTop : Obligations.CycleKeepsPCBelowTop := by
  unfold Obligations.CycleKeepsPCBelowTop
  intro s t hnext hlo hhi hpc hstep
  have hcycle : s.dropHead.cycle = .next t := (step_of_cycleNext hnext).symm.trans hstep
  obtain ⟨-, hconfig, hpending, -⟩ := State.cycle_effect hcycle
  refine ⟨?_, hpending, congrArg Config.memSize hconfig⟩
  rw [hconfig]
  rcases State.cycle_pc hcycle with hsame | ⟨w, i, hf, hafter⟩
  · rw [hsame]
    exact hpc
  · rw [hafter]
    exact pcAfter_le_of_fetch (s := s.dropHead) i hlo hhi hf

/-! ### The end of a run (70_reset_and_hazards.md, R290) -/

/-- Setting PC to where it stands changes nothing. -/
theorem State.setPC_self {s : State} {w : Word} (h : w = s.pc) : s.setPC w = s := by
  subst h
  rfl

/-- A CYCLE at a JP to PC itself stores the word in OP, answers OK and does nothing else (R133, R290). -/
theorem step_of_jump_to_self {s : State} {w : Word} (hnext : s.CycleNext) (hwf : s.config.wellFormed = true)
    (hf : s.fetch s.pcPosition = .ok w) (hlead : w.extractLsb' 12 4 = 0x1)
    (htarget : (w.extractLsb' 0 12).toNat = s.pc.toNat) : step s = .next ((s.dropHead.setOP w).respond .ok) := by
  have himage : w &&& maskM4 = 0x1000 := and_maskM4_of_leading hlead
  have hkey : decodeKey s.config w = some 0x1000 :=
    decodeKey_of_leading_pattern hwf (by decide) (by simp [implementedKeys, maskM4]) himage
  have hpc : (fieldNNN w).setWidth 16 = s.pc :=
    BitVec.eq_of_toNat_eq ((BitVec.toNat_setWidth_of_le (by decide)).trans htarget)
  rw [step_of_cycleNext_decode hnext hf (decode_of_key hkey rfl), exec_jp, State.movePC,
    State.setPC_self (s := s.dropHead.setOP w) hpc]

/-- Settles O34: the CYCLE changes OP and the response alone; the next one finds both as it would leave them. -/
theorem finishedIsFixedPoint : Obligations.FinishedIsFixedPoint := by
  unfold Obligations.FinishedIsFixedPoint
  rintro s hnext hwf ⟨hfree, w, hf, hlead, htarget⟩
  refine ⟨_, w, hf, step_of_jump_to_self hnext hwf hf hlead htarget, rfl, ⟨hfree, w, hf, hlead, htarget⟩, rfl,
    sameOutside_of_eq rfl rfl rfl, fun hagain => ?_⟩
  exact step_of_jump_to_self hagain hwf hf hlead htarget

end Sys2Proof.Machine
